-- ==== Sys2Proof/Word.lean ====
section
/-! DEFINITION. The widths of the values the link codec handles (00_scope.md R6; 10_state.md R12, R14, R17;
30_encoding.md R57, R68). Every value is unsigned; bit 0 is the least significant bit. -/

namespace Sys2Proof

/-- A byte, `u8` (R6). -/
abbrev Byte := BitVec 8

/-- A payload word, `u16`: the word of a packet and one entry of the store (R13, R17). -/
abbrev Word := BitVec 16

/-- A packet index, 0..255, which is also the address of a store entry (R13, R30). -/
abbrev Index := BitVec 8

/-- A symbol, a 2-bit value 0..3 (R12, R51). -/
abbrev Symbol := BitVec 2

/-- The 32-bit frame of a packet and the receive window, which share one layout (R14, R53, R54). -/
abbrev Window := BitVec 32

/-- A 32-bit command word at the port (R57). -/
abbrev CmdWord := BitVec 32

end Sys2Proof
end

