-- ==== Sys2Proof/Syntax.lean ====
section
/-! DEFINITION. The operations of the link codec as typed terms: one constructor per row of spec/opcode_table.json
(30_encoding.md R58 to R64). `RESET` is not one of them: it is an input event of the block (R57, R140), see
Machine/State.lean. -/

namespace Sys2Proof

/-- The five mutually exclusive line states, in the fixed declaration order (10_state.md R11). Nothing compares
colours as numbers; the 3-bit code of R50 exists at the port only (Decode.lean). -/
inductive Color where
  | off
  | white
  | red
  | green
  | blue
deriving DecidableEq, Repr

/-- The seven operations, operands in the assembler's order (30_encoding.md R67). -/
inductive Instr where
  /-- `CRC8 word, index` (R58, R73). -/
  | crc8 (word : Word) (index : Index)
  /-- `SYMF prev, curr` (R59, R87). -/
  | symf (prev curr : Color)
  /-- `SYMI prev, v`, `v` wider than a symbol so that the clamp of R84 can be reached (R60, R88). -/
  | symi (prev : Color) (v : Byte)
  /-- `TXBEGIN` (R61, R90). -/
  | txbegin
  /-- `ENCW index, word` (R62, R91). -/
  | encw (index : Index) (word : Word)
  /-- `FEED color, duration`, the duration in the port's 16 bits, `DUR_W` (R56, R63, R100). -/
  | feed (color : Color) (duration : BitVec 16)
  /-- `RDSTORE index` (R64, R109). -/
  | rdstore (index : Index)
deriving DecidableEq, Repr

end Sys2Proof
end

