-- ==== Sys2Proof/Machine/Codec.lean ====
section
/-! DEFINITION. The differential colour-symbol codec, a pair of pure maps (41_codec.md R80, R82, R84). -/

namespace Sys2Proof.Machine

/-- The alphabet in declaration order (R11). -/
def colorOrder : List Color := [.off, .white, .red, .green, .blue]

/-- The four colours other than `prev`, in declaration order (R80). -/
def otherColors (prev : Color) : List Color := colorOrder.filter (fun c => c ≠ prev)

/-- `symbol_for_transition`: 0 when the colour is held, else the position of `curr` among the colours other than
`prev`, counting from 0 (R80). -/
def symbolForTransition (prev curr : Color) : Symbol :=
  if curr = prev then 0 else BitVec.ofNat 2 ((otherColors prev).idxOf curr)

/-- The clamp: a number above 3 is looked up as 3, and nothing records it (R84, R123). -/
def clampSymbol (v : Nat) : Symbol := BitVec.ofNat 2 (min v 3)

/-- `color_for_symbol`: the first colour other than `prev` in declaration order whose symbol is the clamped `v` (R82).
One always exists, so the `none` branch is never taken (assumption 14). -/
def colorForSymbol (prev : Color) (v : Nat) : Color :=
  match (otherColors prev).find? (fun c => symbolForTransition prev c = clampSymbol v) with
  | some c => c
  | none => prev

end Sys2Proof.Machine
end

