-- ==== Sys2Proof/Machine/Crc.lean ====
section
/-! DEFINITION. The CRC-8 generator, a pure unit (40_crc8.md): polynomial 0x07, initial value 0, no reflection, no
final XOR, over (word low, word high, index). The bit procedure is the spec writer's general knowledge (G1;
assumption 10). -/

namespace Sys2Proof.Machine

/-- One shift of the remainder: bit 7 is tested and dropped, and 0x07 is folded in when it was 1 (R71). -/
def crc8Shift (r : Byte) : Byte :=
  if r.msb then (r <<< 1) ^^^ 0x07 else r <<< 1

/-- `n` shifts of the remainder (R71). -/
def crc8Shifts : Nat → Byte → Byte
  | 0, r => r
  | n + 1, r => crc8Shifts n (crc8Shift r)

/-- `crc8_byte`: one message byte folded into the remainder (R71). -/
def crc8Byte (c b : Byte) : Byte := crc8Shifts 8 (c ^^^ b)

/-- `crc8`: word low byte first, then word high byte, then the index (R72). -/
def crc8 (word : Word) (index : Index) : Byte :=
  crc8Byte (crc8Byte (crc8Byte 0 (word.extractLsb' 0 8)) (word.extractLsb' 8 8)) index

end Sys2Proof.Machine
end

