-- ==== Sys2Proof/Config.lean ====
section
/-! DEFINITION. The implementation parameters of one block (00_scope.md R5, 10_state.md R19, R20), its one free value
among them, the power-on contents of its store (R24). The CRC's parameters, the store's size and the window's width are
fixed by the spec and stand where they are used. -/

namespace Sys2Proof

/-- The parameters of one block, "a field of its configuration" each (R5). No operation writes them (R19). State
carries the record so that a statement over all states is a statement over all parameter values (assumption 1). -/
structure Config where
  /-- `MIN_DURATION`, the receiver's noise floor (R5, R19, R101). -/
  minDuration : Nat
  /-- `DURATION`, the hold time put into every command (R5, R19, R94). -/
  duration : Nat
  /-- `WINDOW_SEED`, what the window holds after reset; never 0 (R20). -/
  windowSeed : Window
  /-- `TX_CAPACITY`, the host's limit on the words of one message, 1..256 (R5, R36). -/
  txCapacity : Nat
  /-- `DUR_W`, the width of a duration on a port; the command words' layouts are those of 16 (R5, R55, R56, R63, U9;
  assumption 11). -/
  durW : Nat
  /-- Which draw of `STORE_INIT` this block was powered on with: the model's name for the draw, since a function cannot
  stand in plain data (R5, R24). DESIGN CHOICE: two blocks, or two power-ons of one block, have unrelated contents
  unless their records name the same draw, and then they have the same (assumption 4). -/
  storeDraw : Nat
deriving DecidableEq, Repr

/-- The word of each entry under each draw, "a value no rule constrains" (R24, U5). A free value: it has no body, so
nothing can be proved of it, nor of two draws together (assumption 4). -/
opaque Config.drawnWord : Nat → Index → Word

/-- `STORE_INIT` of this block: what an entry of its store holds at power-on (R5, R24). Each block has its own, blocks
sharing nothing (R10, R130). -/
def Config.storeInit (c : Config) (index : Index) : Word := Config.drawnWord c.storeDraw index

end Sys2Proof
end

