-- ==== Sys2Proof/WellFormed.lean ====
section
/-! DEFINITION. What is well-formed: a typed operation always (its operand types admit only legal operands,
60_exceptions.md R124), a command word by the opcode table (30_encoding.md R65), a configuration by the constraints
of 00_scope.md R5. -/

namespace Sys2Proof

/-- One row of spec/opcode_table.json: the words `w` with `w &&& mask = value`, and the low bit of each colour field. -/
structure TableRow where
  mnemonic : String
  value : CmdWord
  mask : CmdWord
  colorFields : List Nat
deriving DecidableEq, Repr

/-- spec/opcode_table.json, its match and mask columns and the colour fields its constraints name (R58 to R64). -/
def opcodeTable : List TableRow :=
  [ ⟨"CRC8", 0x10000000, 0xFF000000, []⟩,
    ⟨"SYMF", 0x20000000, 0xFFFFFFC0, [3, 0]⟩,
    ⟨"SYMI", 0x30000000, 0xFFFFF800, [8]⟩,
    ⟨"TXBEGIN", 0x40000000, 0xFFFFFFFF, []⟩,
    ⟨"ENCW", 0x50000000, 0xFF000000, []⟩,
    ⟨"FEED", 0x60000000, 0xFFF80000, [16]⟩,
    ⟨"RDSTORE", 0x70000000, 0xFFFFFF00, []⟩ ]

/-- The word is one of this row's: the fixed bits agree and every colour field holds 0..4 (R65). -/
def TableRow.admits (r : TableRow) (w : CmdWord) : Bool :=
  (w &&& r.mask == r.value) && r.colorFields.all (fun lo => w.extractLsb' lo 3 ≤ 4)

/-- The row of spec/opcode_table.json that stands for an operation (R58 to R64). -/
def opcodeRow : Instr → TableRow
  | .crc8 _ _ => ⟨"CRC8", 0x10000000, 0xFF000000, []⟩
  | .symf _ _ => ⟨"SYMF", 0x20000000, 0xFFFFFFC0, [3, 0]⟩
  | .symi _ _ => ⟨"SYMI", 0x30000000, 0xFFFFF800, [8]⟩
  | .txbegin => ⟨"TXBEGIN", 0x40000000, 0xFFFFFFFF, []⟩
  | .encw _ _ => ⟨"ENCW", 0x50000000, 0xFF000000, []⟩
  | .feed _ _ => ⟨"FEED", 0x60000000, 0xFFF80000, [16]⟩
  | .rdstore _ => ⟨"RDSTORE", 0x70000000, 0xFFFFFF00, []⟩

/-- The words that are not refused, read off the opcode table alone and not off the decoder (R65). -/
def CmdWord.wellFormed (w : CmdWord) : Bool :=
  opcodeTable.any (fun r => r.admits w)

/-- Every typed operation is legal: "A model that takes operations as typed terms has no refusal at all" (R124). -/
def Instr.wellFormed (i : Instr) : Bool :=
  match i with
  | .crc8 _ _ => true
  | .symf _ _ => true
  | .symi _ _ => true
  | .txbegin => true
  | .encw _ _ => true
  | .feed _ _ => true
  | .rdstore _ => true

/-- The constraints on the parameters: the seed is not 0 and the capacity is 1..256 (R5), and `DUR_W` is the width the
layouts of the command words give a duration, 16 (R5, R63; assumption 11). `MIN_DURATION` and `DURATION` may be any
natural number (R19), and no draw of the store's contents is excluded (R24). -/
def Config.wellFormed (c : Config) : Bool :=
  (c.windowSeed != 0) && decide (1 ≤ c.txCapacity) && decide (c.txCapacity ≤ 256) && decide (c.durW = 16)

end Sys2Proof
end

