-- ==== Sys2Proof/Decode.lean ====
section
/-! DEFINITION. The command words of 30_encoding.md part 2: the colour codes (R50), a total decoder that names the
ground of a refusal (R65, R66, R68), the encoder (R58 to R64), and the opcode table's numbering of the bits. -/

namespace Sys2Proof

/-- The 3-bit code of a colour at the port (R50). -/
def colorCode : Color → BitVec 3
  | .off => 0
  | .white => 1
  | .red => 2
  | .green => 3
  | .blue => 4

/-- The colour a 3-bit code stands for; codes 5, 6 and 7 stand for none (R50, R65). -/
def colorOfCode (c : BitVec 3) : Option Color :=
  if c = 0 then some .off
  else if c = 1 then some .white
  else if c = 2 then some .red
  else if c = 3 then some .green
  else if c = 4 then some .blue
  else none

/-- The three grounds on which a command word is refused (R65). The response does not say which (R126). -/
inductive Illegal where
  /-- `op` is 0x0 or 0x8..0xF. -/
  | reservedOp
  /-- A reserved bit of the operation's layout is 1. -/
  | reservedBit
  /-- A colour field holds 5, 6 or 7. -/
  | colorField
deriving DecidableEq, Repr

/-- What the decoder answers: an operation or the ground of the refusal. -/
inductive Decoded where
  | ok (i : Instr)
  | illegal (why : Illegal)
deriving DecidableEq, Repr

/-- The field of `n` bits of a command word from bit `lo` up, unsigned (R68). -/
def field (w : CmdWord) (lo n : Nat) : BitVec n := w.extractLsb' lo n

/-- `CRC8`: cmd[27:24] = 0, cmd[23:8] = word, cmd[7:0] = index (R58). -/
def decodeCrc8 (w : CmdWord) : Decoded :=
  if field w 24 4 = 0 then .ok (.crc8 (field w 8 16) (field w 0 8)) else .illegal .reservedBit

/-- `SYMF`: cmd[27:6] = 0, cmd[5:3] = prev, cmd[2:0] = curr (R59). -/
def decodeSymf (w : CmdWord) : Decoded :=
  if field w 6 22 = 0 then
    match colorOfCode (field w 3 3), colorOfCode (field w 0 3) with
    | some prev, some curr => .ok (.symf prev curr)
    | _, _ => .illegal .colorField
  else .illegal .reservedBit

/-- `SYMI`: cmd[27:11] = 0, cmd[10:8] = prev, cmd[7:0] = v (R60). -/
def decodeSymi (w : CmdWord) : Decoded :=
  if field w 11 17 = 0 then
    match colorOfCode (field w 8 3) with
    | some prev => .ok (.symi prev (field w 0 8))
    | none => .illegal .colorField
  else .illegal .reservedBit

/-- `TXBEGIN`: cmd[27:0] = 0 (R61). -/
def decodeTxbegin (w : CmdWord) : Decoded :=
  if field w 0 28 = 0 then .ok .txbegin else .illegal .reservedBit

/-- `ENCW`: cmd[27:24] = 0, cmd[23:16] = index, cmd[15:0] = word (R62). -/
def decodeEncw (w : CmdWord) : Decoded :=
  if field w 24 4 = 0 then .ok (.encw (field w 16 8) (field w 0 16)) else .illegal .reservedBit

/-- `FEED`: cmd[27:19] = 0, cmd[18:16] = color, cmd[15:0] = duration (R63). -/
def decodeFeed (w : CmdWord) : Decoded :=
  if field w 19 9 = 0 then
    match colorOfCode (field w 16 3) with
    | some color => .ok (.feed color (field w 0 16))
    | none => .illegal .colorField
  else .illegal .reservedBit

/-- `RDSTORE`: cmd[27:8] = 0, cmd[7:0] = index (R64). -/
def decodeRdstore (w : CmdWord) : Decoded :=
  if field w 8 20 = 0 then .ok (.rdstore (field w 0 8)) else .illegal .reservedBit

/-- The decoder: `op` in cmd[31:28] selects the layout, and every 32-bit word is one of the seven operations or
refused (R57, R65). -/
def decode (w : CmdWord) : Decoded :=
  if field w 28 4 = 1 then decodeCrc8 w
  else if field w 28 4 = 2 then decodeSymf w
  else if field w 28 4 = 3 then decodeSymi w
  else if field w 28 4 = 4 then decodeTxbegin w
  else if field w 28 4 = 5 then decodeEncw w
  else if field w 28 4 = 6 then decodeFeed w
  else if field w 28 4 = 7 then decodeRdstore w
  else .illegal .reservedOp

/-- The command word of an operation, field by field from bit 31 down (R58 to R64). -/
def encode (i : Instr) : CmdWord :=
  match i with
  | .crc8 word index => (1 : BitVec 4) ++ (0 : BitVec 4) ++ word ++ index
  | .symf prev curr => (2 : BitVec 4) ++ (0 : BitVec 22) ++ colorCode prev ++ colorCode curr
  | .symi prev v => (3 : BitVec 4) ++ (0 : BitVec 17) ++ colorCode prev ++ v
  | .txbegin => (4 : BitVec 4) ++ (0 : BitVec 28)
  | .encw index word => (5 : BitVec 4) ++ (0 : BitVec 4) ++ index ++ word
  | .feed color duration => (6 : BitVec 4) ++ (0 : BitVec 9) ++ colorCode color ++ duration
  | .rdstore index => (7 : BitVec 4) ++ (0 : BitVec 20) ++ index

/-- The command word whose low `nbits` bits are those of `w`, every higher bit 0. A command word is one 32-bit word,
so the opcode table's numbering is the word's own (assumption 18). -/
def tableWord (nbits w : Nat) : CmdWord := BitVec.ofNat 32 (w % 2 ^ nbits)

/-- The operation the decoder reads from the opcode table's bits, `none` where it refuses. -/
def decodeTableWord (nbits w : Nat) : Option Instr :=
  match decode (tableWord nbits w) with
  | .ok i => some i
  | .illegal _ => none

end Sys2Proof
end

