-- ==== Sys2Proof/Machine/Params.lean ====
section
/-! DEFINITION. The parameter values the machine is reset with. Statements quantify over every State and so over every
parameter value; these are only what `State.reset` carries. -/

namespace Sys2Proof.Machine

/-- `MIN_DURATION = 60` and `DURATION = 125` are the source's defaults, unaudited (R5; assumption 3); `WINDOW_SEED` is
open and the spec's vectors use 0xFFFFFFFF (R20; DESIGN CHOICE, assumption 2); `TX_CAPACITY` is open in 1..256
(R36; DESIGN CHOICE, assumption 12); `DUR_W = 16` is the spec's (R5, D4); the draw's number names an unconstrained
function (DESIGN CHOICE, assumption 4). -/
def resetConfig : Config :=
  { minDuration := 60, duration := 125, windowSeed := 0xFFFFFFFF, txCapacity := 256, durW := 16, storeDraw := 0 }

end Sys2Proof.Machine
end

