-- ==== Sys2Proof/Machine/State.lean ====
section
/-! DEFINITION. The state of one link codec as plain data (10_state.md), the records its streams are made of, the
reasons a step can stop, and the state after power-on reset. -/

namespace Sys2Proof.Machine

/-- A command on `tx_out`: a colour and how long the driver is to hold it (R18, R55). -/
structure Command where
  color : Color
  duration : Nat
deriving DecidableEq, Repr

/-- What the receiver emits: index and word, without the checksum (R13, R21, R113). -/
structure Packet where
  index : Index
  word : Word
deriving DecidableEq, Repr

/-- The status of a response (R57). -/
inductive Status where
  | ok
  | err
deriving DecidableEq, Repr

/-- The block's answer to a command word (R57). -/
structure Response where
  status : Status
  rsp : BitVec 32
deriving DecidableEq, Repr

/-- What the host can put on the port: the RESET input (R140) or a command word (R57). -/
inductive PortEvent where
  | reset
  | cmd (w : CmdWord)
deriving DecidableEq, Repr

/-- The received-word store, sparse: pairs of an entry's index and its 16-bit word, one pair for each entry written
since power-on, indexes strictly rising. The smallest addressable unit is the 16-bit entry (R30; assumption 5). -/
abbrev Memory := List (Nat × Word)

/-- Everything the spec gives the machine (R10, R21, R57), its configuration constants (R19, R20) and the port's
pending inputs, the model's own field (assumption 6). -/
structure State where
  /-- `rx_window`: the last 16 symbols, the latest in the low 2 bits (R14). -/
  rxWindow : Window
  /-- `rx_prev`: the last colour the receiver accepted (R15). -/
  rxPrev : Color
  /-- `tx_prev`: the serializer's running previous colour (R16). -/
  txPrev : Color
  /-- `Store[0..255]` (R17). -/
  store : Memory
  /-- `tx_out`: the commands emitted, oldest first (R21). -/
  txOut : List Command
  /-- `pkt_out`: the packets emitted, oldest first (R21, R113). -/
  pktOut : List Packet
  /-- The responses given at the port, oldest first (R57, R154). -/
  responses : List Response
  /-- The host's inputs not yet taken, oldest first (R38, R154). -/
  port : List PortEvent
  /-- The configuration constants, which no operation writes (R5, R19, R20). -/
  cfg : Config
deriving DecidableEq, Repr

/-- No constructor: "The block raises no exception, trap, fault or error of any kind" (R120), and there is no fault
state (R154). No step of this model answers with a fault. -/
inductive Fault where
deriving DecidableEq, Repr

/-- Why the model gives no meaning to an operation. -/
inductive Refusal where
  /-- Raised by an arm of `exec` for an operation not modelled yet, and by nothing else; safe. No arm raises it. -/
  | notModelled (mnemonic : String)
deriving DecidableEq, Repr

/-- The block right after its first reset (R24): the window holds the seed, both previous colours are Off, nothing of
the store is written, the streams are empty, and the host has placed nothing on the port. -/
def State.reset : State :=
  { rxWindow := resetConfig.windowSeed
    rxPrev := .off
    txPrev := .off
    store := []
    txOut := []
    pktOut := []
    responses := []
    port := []
    cfg := resetConfig }

end Sys2Proof.Machine
end

