-- ==== Sys2Proof/Machine/Operands.lean ====
section
/-! DEFINITION. The operand and data formats of 30_encoding.md part 1: the byte order of a word (R35), the frame
(R53), its symbols (R51, R52), the window's fields (R54), the command on a port (R55) and the response layouts (R57
to R64). The block has no other operand form: operands arrive in the command word, unsigned (R22, R68). -/

namespace Sys2Proof.Machine

/-- `low = word[7:0]` (R35). -/
def lowByte (word : Word) : Byte := word.extractLsb' 0 8

/-- `high = word[15:8]` (R35). -/
def highByte (word : Word) : Byte := word.extractLsb' 8 8

/-- `{high, low}`: a word from its two bytes (R35, R54). -/
def wordOfBytes (low high : Byte) : Word := high ++ low

/-- The frame of a packet: index, word low byte, word high byte, checksum, from bit 31 down (R53). -/
def frameOf (index : Index) (word : Word) (checksum : Byte) : Window :=
  index ++ lowByte word ++ highByte word ++ checksum

/-- The frame the serializer sends for a packet: its checksum is `crc8(word, index)` (R13, R92). -/
def packetFrame (index : Index) (word : Word) : Window := frameOf index word (crc8 word index)

/-- Symbol number `j` of a frame, `F[31-2j : 30-2j]`, `j = 0` first (R52, R53). -/
def frameSymbol (frame : Window) (j : Nat) : Symbol := frame.extractLsb' (30 - 2 * j) 2

/-- The 16 symbols of a frame in the order they are sent: within each byte the most significant pair first
(R52, R53). -/
def frameSymbols (frame : Window) : List Symbol := (List.range 16).map (frameSymbol frame)

/-- `index = w[31:24]` (R54, R104). -/
def windowIndex (w : Window) : Index := w.extractLsb' 24 8

/-- `word = {w[15:8], w[23:16]}` (R54, R104). -/
def windowWord (w : Window) : Word := wordOfBytes (w.extractLsb' 16 8) (w.extractLsb' 8 8)

/-- `checksum = w[7:0]` (R54, R104). -/
def windowChecksum (w : Window) : Byte := w.extractLsb' 0 8

/-- The packet a valid window stands for (R104, R105). -/
def windowPacket (w : Window) : Packet := { index := windowIndex w, word := windowWord w }

/-- `{rx_window[29:0], s}`: the window with one symbol shifted in, its oldest symbol lost (R103). -/
def shiftIn (w : Window) (s : Symbol) : Window := (w <<< 2) ||| s.zeroExtend 32

/-- A command as it stands on a port: `{color[2:0], duration[DUR_W-1:0]}`, 19 bits with `DUR_W = 16` (R55;
assumption 11). -/
def commandPortBits (cfg : Config) (c : Command) : BitVec (3 + cfg.durW) :=
  colorCode c.color ++ BitVec.ofNat cfg.durW c.duration

/-- The response of an operation that answers no value: `rsp = 0` (R61, R62, R63). -/
def rspNone : BitVec 32 := 0

/-- `rsp[7:0] = crc`, the rest 0 (R58). -/
def rspCrc (crc : Byte) : BitVec 32 := crc.zeroExtend 32

/-- `rsp[1:0] = symbol`, the rest 0 (R59). -/
def rspSymbol (s : Symbol) : BitVec 32 := s.zeroExtend 32

/-- `rsp[2:0] = ` colour code, the rest 0 (R60). -/
def rspColor (c : Color) : BitVec 32 := (colorCode c).zeroExtend 32

/-- `rsp[24] = 1`, `rsp[23:16] = index`, `rsp[15:0] = word`, the rest 0 (R63). -/
def rspPacket (p : Packet) : BitVec 32 := (1 : BitVec 8) ++ p.index ++ p.word

/-- `rsp[15:0] = Store[index]`, the rest 0 (R64). -/
def rspWord (w : Word) : BitVec 32 := w.zeroExtend 32

end Sys2Proof.Machine
end

