-- ==== Sys2Proof/Machine/Ops.lean ====
section
/-! DEFINITION. The named operations over the state: the store's read and write (20_memory.md), the output streams
(10_state.md R21), the responses (30_encoding.md R57), taking an input from the port, the port's refusal
(60_exceptions.md R124) and the RESET event (70_reset_and_hazards.md R140). The spec gives the block no exception
entry and no return from one (R120, R127), so there is none here. -/

namespace Sys2Proof.Machine

/-- The word listed for an entry, `none` for an entry never written. -/
def Memory.lookup : Memory → Nat → Option Word
  | [], _ => none
  | (b, v) :: m, a => if a = b then some v else Memory.lookup m a

/-- What an entry never written since power-on reads as: this block's `STORE_INIT(i)`, a free value (R24, R32;
assumption 4). -/
def Memory.unlisted (cfg : Config) (index : Index) : Word := cfg.storeInit index

/-- `Store[index]` of a block with these parameters (R32). -/
def Memory.read (cfg : Config) (m : Memory) (index : Index) : Word :=
  match Memory.lookup m index.toNat with
  | some w => w
  | none => Memory.unlisted cfg index

/-- The list with the entry at address `a` set to `w`, the indexes kept strictly rising. -/
def Memory.insert : Memory → Nat → Word → Memory
  | [], a, w => [(a, w)]
  | (b, v) :: m, a, w =>
    if a < b then (a, w) :: (b, v) :: m
    else if a = b then (a, w) :: m
    else (b, v) :: Memory.insert m a w

/-- `Store[index] <- word`: the whole 16-bit entry is overwritten in place (R31, R33). -/
def Memory.write (m : Memory) (index : Index) (word : Word) : Memory := Memory.insert m index.toNat word

/-- The canonical form: indexes below 256, strictly rising (R30; assumption 5). An entry never written has no word of
its own in the list, so no listed entry repeats what an unlisted one reads as. -/
def Memory.wf : Memory → Bool
  | [] => true
  | (a, _) :: m => decide (a < 256) && m.all (fun e => decide (a < e.1)) && Memory.wf m

/-- The response `(status, rsp)` appended to those already given (R57). -/
def State.respond (s : State) (status : Status) (rsp : BitVec 32) : State :=
  { s with responses := s.responses ++ [{ status := status, rsp := rsp }] }

/-- `emit_cmd` for each command of the list, in order (R7, R21). -/
def State.emitCommands (s : State) (cs : List Command) : State :=
  { s with txOut := s.txOut ++ cs }

/-- `emit_pkt` (R7, R21). -/
def State.emitPacket (s : State) (p : Packet) : State :=
  { s with pktOut := s.pktOut ++ [p] }

/-- `Store[index] <- word` (R7, R31). -/
def State.writeStore (s : State) (index : Index) (word : Word) : State :=
  { s with store := Memory.write s.store index word }

/-- `Store[index]`, read (R7, R32). -/
def State.readStore (s : State) (index : Index) : Word := Memory.read s.cfg s.store index

/-- `tx_prev <- c` (R16). -/
def State.setTxPrev (s : State) (c : Color) : State := { s with txPrev := c }

/-- `rx_window <- w` (R14). -/
def State.setRxWindow (s : State) (w : Window) : State := { s with rxWindow := w }

/-- `rx_prev <- c` (R15). -/
def State.setRxPrev (s : State) (c : Color) : State := { s with rxPrev := c }

/-- The port after its oldest input has been taken. -/
def State.advance (s : State) : State := { s with port := s.port.tail }

/-- RESET: the window is re-seeded and both previous colours are Off; the store, the streams and the constants keep
what they hold (R24, R140). It is not a command word and gives no response (R57). -/
def State.resetInput (s : State) : State :=
  { s with rxWindow := s.cfg.windowSeed, rxPrev := .off, txPrev := .off }

/-- The refusal of a malformed command word: `status = ERR`, `rsp = 0`, and nothing else changes (R65, R124). The
ground is not reported (R126). -/
def State.refuseWord (s : State) : State := s.respond .err 0

/-- What the port holds next. -/
inductive Fetched where
  /-- Nothing is placed on the port: the passive block does nothing (R153, R154). -/
  | idle
  /-- The RESET input (R140). -/
  | reset
  /-- A command word that is no command (R65). -/
  | malformed (why : Illegal)
  /-- A command word and the operation it asks for (R57). -/
  | operation (i : Instr)
deriving DecidableEq, Repr

/-- The oldest input on the port, decoded: operations are taken one at a time in the order the host issued them
(R38, R126). -/
def fetch (s : State) : Fetched :=
  match s.port with
  | [] => .idle
  | .reset :: _ => .reset
  | .cmd w :: _ =>
    match decode w with
    | .ok i => .operation i
    | .illegal why => .malformed why

end Sys2Proof.Machine
end

