-- ==== Sys2Proof/Machine/PureOps.lean ====
section
/-! DEFINITION. The operations that touch no state: CRC8 (40_crc8.md R73), SYMF and SYMI (41_codec.md R87, R88). -/

namespace Sys2Proof.Machine

/-- `CRC8 word, index` (R73). -/
def execCrc8 (word : Word) (index : Index) (s : State) : Host.Outcome State Fault Refusal :=
  .next (s.respond .ok (rspCrc (crc8 word index)))

/-- `SYMF prev, curr`; it reads neither `rx_prev` nor `tx_prev` (R87). -/
def execSymf (prev curr : Color) (s : State) : Host.Outcome State Fault Refusal :=
  .next (s.respond .ok (rspSymbol (symbolForTransition prev curr)))

/-- `SYMI prev, v`; a `v` above 3 is clamped, not refused (R84, R88). -/
def execSymi (prev : Color) (v : Byte) (s : State) : Host.Outcome State Fault Refusal :=
  .next (s.respond .ok (rspColor (colorForSymbol prev v.toNat)))

end Sys2Proof.Machine
end

