-- ==== Sys2Proof/Machine/Flags.lean ====
section
/-! DEFINITION. The block has no flags or condition codes (10_state.md R22): no operation writes one. What stands
here are the only two conditions it tests, both inside FEED and neither stored. -/

namespace Sys2Proof.Machine

/-- The ignore test of FEED step 1: too short (strictly below `MIN_DURATION`) or the colour already held (R101). -/
def eventIgnored (cfg : Config) (rxPrev color : Color) (duration : Nat) : Bool :=
  decide (duration < cfg.minDuration) || decide (color = rxPrev)

/-- `frame_valid(w)`: the checksum field is the CRC of the word and index fields (R105). -/
def frameValid (w : Window) : Bool :=
  windowChecksum w == crc8 (windowWord w) (windowIndex w)

end Sys2Proof.Machine
end

