-- ==== Sys2Proof/Machine/Receiver.lean ====
section
/-! DEFINITION. The receive side: the operations FEED (43_receiver.md R100, its steps R101 to R106) and RDSTORE (R109). -/

namespace Sys2Proof.Machine

/-- The window after an accepted event of colour `color`: the symbol is read against `rx_prev` as it was before the
event and shifted in (R102, R103). -/
def nextWindow (s : State) (color : Color) : Window :=
  shiftIn s.rxWindow (symbolForTransition s.rxPrev color)

/-- Step 5 for a window `w`: a valid frame is stored, emitted and reported; any other leaves everything (R105, R121). -/
def deliver (w : Window) (s : State) : State :=
  if frameValid w then
    ((s.writeStore (windowIndex w) (windowWord w)).emitPacket (windowPacket w)).respond .ok (rspPacket (windowPacket w))
  else s.respond .ok rspNone

/-- Steps 2 to 6 of an event that is not ignored, one atomic step (R102 to R107). -/
def acceptEvent (color : Color) (s : State) : State :=
  (deliver (nextWindow s color) (s.setRxWindow (nextWindow s color))).setRxPrev color

/-- FEED over durations of any width: an ignored event changes nothing but the responses (R100, R101). -/
def feedEvent (color : Color) (duration : Nat) (s : State) : State :=
  if eventIgnored s.cfg s.rxPrev color duration then s.respond .ok rspNone else acceptEvent color s

/-- `FEED color, duration` (R100). -/
def execFeed (color : Color) (duration : BitVec 16) (s : State) : Host.Outcome State Fault Refusal :=
  .next (feedEvent color duration.toNat s)

/-- `RDSTORE index`; an entry never written answers the free value (R109). -/
def execRdstore (index : Index) (s : State) : Host.Outcome State Fault Refusal :=
  .next (s.respond .ok (rspWord (s.readStore index)))

end Sys2Proof.Machine
end

