-- ==== Sys2Proof/Machine/Serializer.lean ====
section
/-! DEFINITION. The transmit side: `serialize` (42_serializer.md R92) and the operations TXBEGIN and ENCW (R90, R91). -/

namespace Sys2Proof.Machine

/-- The colours of a list of symbols, each chosen against the colour before it, starting from `p` (R92). -/
def colorChain (p : Color) : List Symbol → List Color
  | [] => []
  | v :: vs => colorForSymbol p v.toNat :: colorChain (colorForSymbol p v.toNat) vs

/-- The last colour of a chain that starts from `p`: the running previous colour after it (R92). -/
def lastColor (p : Color) (colors : List Color) : Color := colors.getLastD p

/-- `serialize(p, index, word)`, its 16 colours (R92). -/
def serialize (p : Color) (index : Index) (word : Word) : List Color :=
  colorChain p (frameSymbols (packetFrame index word))

/-- The command of one colour; every command has the one constant duration (R94). -/
def commandOf (cfg : Config) (c : Color) : Command := { color := c, duration := cfg.duration }

/-- `TXBEGIN` (R90). -/
def execTxbegin (s : State) : Host.Outcome State Fault Refusal :=
  .next ((s.setTxPrev .off).respond .ok rspNone)

/-- `ENCW index, word`: the 16 commands are appended in symbol order and `tx_prev` becomes the last colour (R91). -/
def execEncw (index : Index) (word : Word) (s : State) : Host.Outcome State Fault Refusal :=
  .next (((s.emitCommands ((serialize s.txPrev index word).map (commandOf s.cfg))).setTxPrev
    (lastColor s.txPrev (serialize s.txPrev index word))).respond .ok rspNone)

end Sys2Proof.Machine
end

