-- ==== Sys2Proof/Machine/Dispatch.lean ====
section
/-! DEFINITION. One arm per operation, each one call of its meaning. -/

namespace Sys2Proof.Machine

def exec (i : Instr) (s : State) : Host.Outcome State Fault Refusal :=
  match i with
  | .crc8 word index => Sys2Proof.Machine.execCrc8 word index s
  | .symf prev curr => Sys2Proof.Machine.execSymf prev curr s
  | .symi prev v => Sys2Proof.Machine.execSymi prev v s
  | .txbegin => Sys2Proof.Machine.execTxbegin s
  | .encw index word => Sys2Proof.Machine.execEncw index word s
  | .feed color duration => Sys2Proof.Machine.execFeed color duration s
  | .rdstore index => Sys2Proof.Machine.execRdstore index s

end Sys2Proof.Machine
end

