-- ==== Sys2Proof/Machine/Step.lean ====
section
/-! DEFINITION. One step of the machine: the oldest input on the port is taken and acted on (20_memory.md R38). -/

namespace Sys2Proof.Machine

/-- With nothing on the port the passive block stays as it is (R153, R154); RESET resets it (R140); a malformed word
gets the ERR response and the run goes on (R124); any other word is its operation (R57). -/
def step (s : State) : Host.Outcome State Fault Refusal :=
  match fetch s with
  | .idle => .next s
  | .reset => .next s.advance.resetInput
  | .malformed _ => .next s.advance.refuseWord
  | .operation i => exec i s.advance

/-- The state with one command word placed on the port ahead of every other input, so that the very next step takes
it (assumption 6). -/
def State.withFetchWord (s : State) (nbits w : Nat) : State :=
  { s with port := .cmd (tableWord nbits w) :: s.port }

end Sys2Proof.Machine
end

