-- ==== Sys2Proof/Machine/HostSide.lean ====
section
/-! DEFINITION. What the host does around the block: it is outside the machine, and the spec states it because the
source fixes the byte order (20_memory.md R36, R37; 42_serializer.md R96, R97; 30_encoding.md R67). No meaning of an
operation depends on this file. -/

namespace Sys2Proof.Machine

/-- The message bytes packed two at a time, low byte first; an odd last byte gets a zero high byte (R36). -/
def packWords : List Byte → List Word
  | [] => []
  | [b] => [wordOfBytes b 0]
  | b0 :: b1 :: rest => wordOfBytes b0 b1 :: packWords rest

/-- The words actually sent: those beyond the capacity are dropped silently (R36, R98, R122). -/
def messageWords (cfg : Config) (bytes : List Byte) : List Word := (packWords bytes).take cfg.txCapacity

/-- `ENCW k, word_k` for the words in order, the first at index `k` (R36, R97). -/
def encwFrom : Nat → List Word → List Instr
  | _, [] => []
  | k, w :: ws => .encw (BitVec.ofNat 8 k) w :: encwFrom (k + 1) ws

/-- The pseudo-operation SEND: TXBEGIN, then the words from index 0 (R36, R67, R97). `none` where the capacity is
outside 1..256, for which the spec has no meaning (R36, U6; assumption 12). -/
def sendInstrs (cfg : Config) (bytes : List Byte) : Option (List Instr) :=
  if 1 ≤ cfg.txCapacity ∧ cfg.txCapacity ≤ 256 then
    some (.txbegin :: encwFrom 0 (messageWords cfg bytes))
  else none

/-- The FEED by which a command arrives unchanged. The port carries `DUR_W` bits of its duration (R55, R56;
assumption 11), in the command word's 16-bit field (R63). -/
def feedOf (cfg : Config) (c : Command) : Instr := .feed c.color (BitVec.ofNat 16 (c.duration % 2 ^ cfg.durW))

/-- The pseudo-operation REPLAY over a command sequence: the perfect channel (R67, R153). -/
def replayInstrs (cfg : Config) (cs : List Command) : List Instr := cs.map (feedOf cfg)

/-- The driver's duty: the commands' colours in order, none dropped, merged or inserted, each held for at least its
duration (R96). -/
def DriverConforms (cs : List Command) (events : List (Color × Nat)) : Prop :=
  List.Forall₂ (fun c e => e.1 = c.color ∧ c.duration ≤ e.2) cs events

/-- The 256 reads of the dump, in order (R37). -/
def dumpInstrs : List Instr := (List.range 256).map (fun i => .rdstore (BitVec.ofNat 8 i))

/-- The bytes a dump takes from the responses to its reads: low byte first (R37). -/
def dumpBytes : List Response → List Byte
  | [] => []
  | r :: rs => lowByte (r.rsp.extractLsb' 0 16) :: highByte (r.rsp.extractLsb' 0 16) :: dumpBytes rs

/-- A host that drives one block and remembers where in `tx_out` the current command sequence began: "the part of
`tx_out` emitted since the latest `TXBEGIN`" (R18). -/
structure Session where
  block : State
  seqStart : Nat
deriving DecidableEq, Repr

/-- The host's first moment: the block just reset, no command sequence begun. -/
def Session.start : Session := { block := State.reset, seqStart := 0 }

/-- The commands emitted since the latest TXBEGIN (R18, R67). -/
def Session.commands (h : Session) : List Command := h.block.txOut.drop h.seqStart

/-- The host issues one input to a block whose port is empty and waits for it: operations never overlap (R40). -/
def Session.issue (h : Session) (e : PortEvent) : Session :=
  match step { h.block with port := h.block.port ++ [e] } with
  | .next t =>
    { block := t
      seqStart := if e = .cmd (encode .txbegin) then t.txOut.length else h.seqStart }
  | .fault _ => h
  | .refused _ => h

/-- The host issues inputs one after the other (R38). -/
def Session.issueAll (h : Session) : List PortEvent → Session
  | [] => h
  | e :: es => (h.issue e).issueAll es

/-- Each operation as the command word that asks for it (R57). -/
def commandWords (is : List Instr) : List PortEvent := is.map (fun i => .cmd (encode i))

end Sys2Proof.Machine
end

