-- ==== Sys2Proof/Safety.lean ====
section
/-! DEFINITION. The terms in which claims about the machine are stated: running a list of operations, the two sides of
the block, the machine's invariant, the CRC's polynomial reading and the spec's CRC table. The block has no fault
state (70_reset_and_hazards.md R154), so a run is safe when it keeps the invariant. -/

namespace Sys2Proof.Machine

/-- The operations one after the other, each complete before the next (20_memory.md R38). -/
def runInstrs : List Instr → State → Host.Outcome State Fault Refusal
  | [], s => .next s
  | i :: is, s =>
    match exec i s with
    | .next t => runInstrs is t
    | .fault r => .fault r
    | .refused r => .refused r

/-- One FEED per event, in order. -/
def feeds (events : List (Color × BitVec 16)) : List Instr := events.map (fun e => .feed e.1 e.2)

/-- The FEEDs of a list of colours with a list of durations, in order. -/
def feedsOf (colors : List Color) (durations : List (BitVec 16)) : List Instr := feeds (colors.zip durations)

/-- One ENCW per packet, in order. -/
def encws (packets : List (Index × Word)) : List Instr := packets.map (fun p => .encw p.1 p.2)

/-- A ground of 30_encoding.md R65 for refusing a command word, spelled out from the layouts R58 to R64: a reserved
`op`, a reserved bit that is 1, or a colour field that holds 5, 6 or 7. -/
def RefusalGround (w : CmdWord) : Prop :=
  let op := w.extractLsb' 28 4
  (op = 0 ∨ 8 ≤ op.toNat)
  ∨ (op = 1 ∧ w.extractLsb' 24 4 ≠ 0) ∨ (op = 2 ∧ w.extractLsb' 6 22 ≠ 0) ∨ (op = 3 ∧ w.extractLsb' 11 17 ≠ 0)
  ∨ (op = 4 ∧ w.extractLsb' 0 28 ≠ 0) ∨ (op = 5 ∧ w.extractLsb' 24 4 ≠ 0) ∨ (op = 6 ∧ w.extractLsb' 19 9 ≠ 0)
  ∨ (op = 7 ∧ w.extractLsb' 8 20 ≠ 0)
  ∨ (op = 2 ∧ (5 ≤ (w.extractLsb' 3 3).toNat ∨ 5 ≤ (w.extractLsb' 0 3).toNat))
  ∨ (op = 3 ∧ 5 ≤ (w.extractLsb' 8 3).toNat) ∨ (op = 6 ∧ 5 ≤ (w.extractLsb' 16 3).toNat)

/-- Which part of the block an operation belongs to (R39). -/
inductive Side where
  | transmit
  | receive
  | pure
deriving DecidableEq, Repr

/-- The side of each operation (R39). -/
def sideOf : Instr → Side
  | .crc8 _ _ => .pure
  | .symf _ _ => .pure
  | .symi _ _ => .pure
  | .txbegin => .transmit
  | .encw _ _ => .transmit
  | .feed _ _ => .receive
  | .rdstore _ => .receive

/-- The events are all accepted by a receiver whose previous colour is `prev`: each long enough and each a change of
colour (R101, R106). -/
def AllAccepted (cfg : Config) (prev : Color) (events : List (Color × BitVec 16)) : Prop :=
  (∀ e ∈ events, cfg.minDuration ≤ e.2.toNat) ∧ List.IsChain (· ≠ ·) (prev :: events.map Prod.fst)

/-- The word of the latest packet with this index in a packet stream, if there is one (R38). -/
def latestWord (packets : List Packet) (index : Index) : Option Word :=
  (packets.reverse.find? (fun p => p.index = index)).map Packet.word

/-- What every step keeps, in states no run reaches too. -/
structure State.Inv (s : State) : Prop where
  /-- The parameters meet their constraints (R5, R20). -/
  cfg_wf : s.cfg.wellFormed = true
  /-- The store is in its canonical form (R30). -/
  store_wf : Memory.wf s.store = true
  /-- Each entry holds the word of the latest packet emitted with its index, and only such entries are listed
  (R17, R31, R38). -/
  store_latest : ∀ index : Index, Memory.lookup s.store index.toNat = latestWord s.pktOut index
  /-- Every command has the one constant duration (R94). -/
  tx_duration : ∀ c ∈ s.txOut, c.duration = s.cfg.duration
  /-- The command stream is made of whole frames of 16 (R93). -/
  tx_frames : s.txOut.length % 16 = 0
  /-- An ERR response carries no value (R124). -/
  err_zero : ∀ r ∈ s.responses, r.status = .err → r.rsp = 0

/-- The polynomial over GF(2) whose coefficient of `x^k` is bit `k` (R74). -/
noncomputable def polyOf {n : Nat} (v : BitVec n) : Polynomial (ZMod 2) :=
  ∑ k ∈ Finset.range n, if v.getLsbD k then Polynomial.X ^ k else 0

/-- `G = x^8 + x^2 + x + 1` (R70, R74). -/
noncomputable def crcGenerator : Polynomial (ZMod 2) :=
  Polynomial.X ^ 8 + Polynomial.X ^ 2 + Polynomial.X + 1

/-- The 24-bit message: word low byte, word high byte, index, bit 7 of each byte its highest power (R74). -/
def crcMessage (word : Word) (index : Index) : BitVec 24 := lowByte word ++ highByte word ++ index

/-- The table of 40_crc8.md R75 as the spec prints it, row by row. -/
def crcTable : List Byte :=
  [0x00, 0x07, 0x0E, 0x09, 0x1C, 0x1B, 0x12, 0x15, 0x38, 0x3F, 0x36, 0x31, 0x24, 0x23, 0x2A, 0x2D] ++
  [0x70, 0x77, 0x7E, 0x79, 0x6C, 0x6B, 0x62, 0x65, 0x48, 0x4F, 0x46, 0x41, 0x54, 0x53, 0x5A, 0x5D] ++
  [0xE0, 0xE7, 0xEE, 0xE9, 0xFC, 0xFB, 0xF2, 0xF5, 0xD8, 0xDF, 0xD6, 0xD1, 0xC4, 0xC3, 0xCA, 0xCD] ++
  [0x90, 0x97, 0x9E, 0x99, 0x8C, 0x8B, 0x82, 0x85, 0xA8, 0xAF, 0xA6, 0xA1, 0xB4, 0xB3, 0xBA, 0xBD] ++
  [0xC7, 0xC0, 0xC9, 0xCE, 0xDB, 0xDC, 0xD5, 0xD2, 0xFF, 0xF8, 0xF1, 0xF6, 0xE3, 0xE4, 0xED, 0xEA] ++
  [0xB7, 0xB0, 0xB9, 0xBE, 0xAB, 0xAC, 0xA5, 0xA2, 0x8F, 0x88, 0x81, 0x86, 0x93, 0x94, 0x9D, 0x9A] ++
  [0x27, 0x20, 0x29, 0x2E, 0x3B, 0x3C, 0x35, 0x32, 0x1F, 0x18, 0x11, 0x16, 0x03, 0x04, 0x0D, 0x0A] ++
  [0x57, 0x50, 0x59, 0x5E, 0x4B, 0x4C, 0x45, 0x42, 0x6F, 0x68, 0x61, 0x66, 0x73, 0x74, 0x7D, 0x7A] ++
  [0x89, 0x8E, 0x87, 0x80, 0x95, 0x92, 0x9B, 0x9C, 0xB1, 0xB6, 0xBF, 0xB8, 0xAD, 0xAA, 0xA3, 0xA4] ++
  [0xF9, 0xFE, 0xF7, 0xF0, 0xE5, 0xE2, 0xEB, 0xEC, 0xC1, 0xC6, 0xCF, 0xC8, 0xDD, 0xDA, 0xD3, 0xD4] ++
  [0x69, 0x6E, 0x67, 0x60, 0x75, 0x72, 0x7B, 0x7C, 0x51, 0x56, 0x5F, 0x58, 0x4D, 0x4A, 0x43, 0x44] ++
  [0x19, 0x1E, 0x17, 0x10, 0x05, 0x02, 0x0B, 0x0C, 0x21, 0x26, 0x2F, 0x28, 0x3D, 0x3A, 0x33, 0x34] ++
  [0x4E, 0x49, 0x40, 0x47, 0x52, 0x55, 0x5C, 0x5B, 0x76, 0x71, 0x78, 0x7F, 0x6A, 0x6D, 0x64, 0x63] ++
  [0x3E, 0x39, 0x30, 0x37, 0x22, 0x25, 0x2C, 0x2B, 0x06, 0x01, 0x08, 0x0F, 0x1A, 0x1D, 0x14, 0x13] ++
  [0xAE, 0xA9, 0xA0, 0xA7, 0xB2, 0xB5, 0xBC, 0xBB, 0x96, 0x91, 0x98, 0x9F, 0x8A, 0x8D, 0x84, 0x83] ++
  [0xDE, 0xD9, 0xD0, 0xD7, 0xC2, 0xC5, 0xCC, 0xCB, 0xE6, 0xE1, 0xE8, 0xEF, 0xFA, 0xFD, 0xF4, 0xF3]

end Sys2Proof.Machine
end

