-- ==== Sys2Proof/Certificates/Slice0/Obligations.lean ====
section
/-! DEFINITION. The statements for the provers, in the order of OBLIGATIONS.json. Each docstring names the rules it
formalises. A statement that rests on the model's own choices says so and names the assumption. -/

open Sys2Proof Sys2Proof.Machine

/-! ### Encoding (30_encoding.md) -/

/-- Command words written out from R58 to R65 decode to what the spec says they are, refused ones included. -/
def Obligations.SpecWordsDecodeAsWritten : Prop :=
  decode 0x10123400 = .ok (.crc8 0x1234 0x00) ∧ decode 0x20000013 = .ok (.symf .red .green)
  ∧ decode 0x30000403 = .ok (.symi .blue 3) ∧ decode 0x40000000 = .ok .txbegin
  ∧ decode 0x50001234 = .ok (.encw 0x00 0x1234) ∧ decode 0x6004007D = .ok (.feed .blue 125)
  ∧ decode 0x70000001 = .ok (.rdstore 0x01) ∧ decode 0x11123400 = .illegal .reservedBit
  ∧ decode 0x6005007D = .illegal .colorField ∧ decode 0x80000000 = .illegal .reservedOp

/-- Decoding the encoding of any operation gives it back, whatever its operands (R58 to R64, R68). -/
def Obligations.DecodeOfEncodeIsTheInstruction : Prop :=
  ∀ i : Instr, i.wellFormed = true → decode (encode i) = .ok i

/-- A word that decodes is the one encoding of what it decodes to: no word executes as another's operation (R65). -/
def Obligations.EncodeOfDecodeIsTheWord : Prop :=
  ∀ (w : CmdWord) (i : Instr), decode w = .ok i → encode i = w

/-- A word is refused exactly when it has one of R65's grounds, and every other word is an operation (R65). -/
def Obligations.RefusedExactlyOnARefusalGround : Prop :=
  ∀ w : CmdWord, ((∃ why, decode w = .illegal why) ↔ RefusalGround w) ∧ ((∃ i, decode w = .ok i) ↔ ¬ RefusalGround w)

/-- The decoder and the opcode table's match, mask and colour fields agree on every word: the words that decode are
those some row admits, and the operation a word decodes to is that of the row that admits it, which is the only such
row (opcode_table.json, R58 to R65). -/
def Obligations.DecoderAgreesWithOpcodeTable : Prop :=
  ∀ w : CmdWord, ((∃ i, decode w = .ok i) ↔ CmdWord.wellFormed w = true)
    ∧ ∀ i, decode w = .ok i → opcodeRow i ∈ opcodeTable ∧ (opcodeRow i).admits w = true
      ∧ ∀ r ∈ opcodeTable, r.admits w = true → r = opcodeRow i

/-! ### The port, reset and the run (30_encoding.md R57, R65; 60_exceptions.md; 70_reset_and_hazards.md) -/

/-- When the oldest input on the port is a word that decodes to a well-formed operation, the step takes that input off
the port and is `exec` of the operation. -/
def Obligations.StepRunsTheDecodedOperation : Prop :=
  ∀ (s : State) (w : CmdWord) (rest : List PortEvent) (i : Instr),
    s.port = .cmd w :: rest → decode w = .ok i → i.wellFormed = true → step s = exec i { s with port := rest }

/-- A word with a refusal ground gets `ERR` with `rsp = 0`, changes nothing else, and the run goes on with the next
input (R124). -/
def Obligations.RefusedWordAnswersErrOnly : Prop :=
  ∀ (s : State) (w : CmdWord) (rest : List PortEvent), s.port = .cmd w :: rest → RefusalGround w →
    step s = .next { s with port := rest, responses := s.responses ++ [{ status := .err, rsp := 0 }] }

/-- RESET re-seeds the window and sets both previous colours to Off; the store, the streams and the constants keep
what they hold (R140, and the later-reset clauses of R24). That it gives no response, so that the responses too keep
what they hold, is the model's inference (assumption 7). -/
def Obligations.ResetInputReseedsOnly : Prop :=
  ∀ (s : State) (rest : List PortEvent), s.port = .reset :: rest →
    step s = .next { s with port := rest, rxWindow := s.cfg.windowSeed, rxPrev := .off, txPrev := .off }

/-- The first reset: the window holds the seed, which is not 0, both previous colours are Off, every store entry reads
as its unconstrained power-on value, and both streams are empty (R24, R20). -/
def Obligations.StateAfterFirstReset : Prop :=
  State.reset.rxWindow = State.reset.cfg.windowSeed ∧ State.reset.cfg.windowSeed ≠ 0
  ∧ State.reset.rxPrev = .off ∧ State.reset.txPrev = .off
  ∧ (∀ index : Index, State.reset.readStore index = State.reset.cfg.storeInit index)
  ∧ State.reset.txOut = [] ∧ State.reset.pktOut = []

/-- With nothing on the port the block does nothing: it acts only when given an operation (R153; that the model's step
then answers the same state is the model's choice, assumption 6). -/
def Obligations.IdleStepChangesNothing : Prop :=
  ∀ s : State, s.port = [] → step s = .next s

/-- No step faults or is refused, in any state: the block raises nothing and has no stuck state (R120, R154). -/
def Obligations.EveryStepAnswersANextState : Prop :=
  ∀ s : State, ∃ t, step s = .next t

/-- A run takes as many steps as inputs were placed on the port, ends, and has then answered exactly one response to
each command word (R57, R154) and none to a RESET (the model's inference, assumption 7). -/
def Obligations.RunConsumesItsInputs : Prop :=
  ∀ s : State, ∃ t : State, Host.Core.run Sys2Proof.core s.port.length s = .next t ∧ t.port = []
    ∧ t.responses.length = s.responses.length + (s.port.filter (fun e => e ≠ .reset)).length

/-! ### Results of the operations -/

/-- `CRC8`: `rsp[7:0] = crc8(word, index)`, `rsp[31:8] = 0`, status OK, and nothing else changes (R73). -/
def Obligations.Crc8AnswersTheChecksum : Prop :=
  ∀ (word : Word) (index : Index) (s : State), ∃ rsp : BitVec 32,
    exec (.crc8 word index) s = .next { s with responses := s.responses ++ [{ status := .ok, rsp := rsp }] }
    ∧ rsp.extractLsb' 0 8 = crc8 word index ∧ rsp.extractLsb' 8 24 = 0

/-- `SYMF`: `rsp[1:0]` is the symbol, `rsp[31:2] = 0`, status OK, and nothing else changes; a held colour answers 0
(R87). -/
def Obligations.SymfAnswersTheSymbol : Prop :=
  ∀ (prev curr : Color) (s : State), ∃ rsp : BitVec 32,
    exec (.symf prev curr) s = .next { s with responses := s.responses ++ [{ status := .ok, rsp := rsp }] }
    ∧ rsp.extractLsb' 0 2 = symbolForTransition prev curr ∧ rsp.extractLsb' 2 30 = 0
    ∧ (prev = curr → rsp = 0)

/-- `SYMI`: `rsp[2:0]` is the colour's code, `rsp[31:3] = 0`, status OK, and nothing else changes; a `v` of 3 or more
answers as 3 does (R88, R84). -/
def Obligations.SymiAnswersTheColorCode : Prop :=
  ∀ (prev : Color) (v : Byte) (s : State), ∃ rsp : BitVec 32,
    exec (.symi prev v) s = .next { s with responses := s.responses ++ [{ status := .ok, rsp := rsp }] }
    ∧ rsp.extractLsb' 0 3 = colorCode (colorForSymbol prev v.toNat) ∧ rsp.extractLsb' 3 29 = 0
    ∧ (3 ≤ v.toNat → rsp.extractLsb' 0 3 = colorCode (colorForSymbol prev 3))

/-- `TXBEGIN`: `tx_prev <- Off`, status OK, `rsp = 0`, and nothing else changes (R90). -/
def Obligations.TxbeginSetsTxPrevOff : Prop :=
  ∀ s : State, exec .txbegin s
    = .next { s with txPrev := .off, responses := s.responses ++ [{ status := .ok, rsp := 0 }] }

/-- `ENCW`: exactly 16 commands of the constant duration, the colour of command `j` being the one for bits
`F[31-2j : 30-2j]` of the frame {index, word low, word high, crc8} against the colour before it, the first against
`tx_prev`; `tx_prev` ends as the last colour; nothing else changes (R91, R92, R94). -/
def Obligations.EncwEmitsTheFrame : Prop :=
  ∀ (index : Index) (word : Word) (s : State), ∃ colors : List Color,
    exec (.encw index word) s = .next
      { s with
        txOut := s.txOut ++ colors.map (fun c => { color := c, duration := s.cfg.duration })
        txPrev := colors.getLastD s.txPrev
        responses := s.responses ++ [{ status := .ok, rsp := 0 }] }
    ∧ colors.length = 16
    ∧ ∀ j, j < 16 → colors[j]? = some (colorForSymbol ((s.txPrev :: colors).getD j .off)
        ((index ++ word.extractLsb' 0 8 ++ word.extractLsb' 8 8 ++ crc8 word index : BitVec 32).extractLsb'
          (30 - 2 * j) 2).toNat)

/-- `FEED`: the six steps of R100, for every state, colour and duration. -/
def Obligations.FeedTakesItsSixSteps : Prop :=
  ∀ (color : Color) (d : BitVec 16) (s : State),
    let w : BitVec 32 := (s.rxWindow <<< 2) ||| (symbolForTransition s.rxPrev color).zeroExtend 32
    let index : Index := w.extractLsb' 24 8
    let word : Word := w.extractLsb' 8 8 ++ w.extractLsb' 16 8
    exec (.feed color d) s = .next (
      if d.toNat < s.cfg.minDuration ∨ color = s.rxPrev then
        { s with responses := s.responses ++ [{ status := .ok, rsp := 0 }] }
      else if w.extractLsb' 0 8 = crc8 word index then
        { s with
          rxWindow := w
          rxPrev := color
          store := Memory.write s.store index word
          pktOut := s.pktOut ++ [{ index := index, word := word }]
          responses := s.responses ++ [{ status := .ok, rsp := (1 : BitVec 8) ++ index ++ word }] }
      else
        { s with
          rxWindow := w
          rxPrev := color
          responses := s.responses ++ [{ status := .ok, rsp := 0 }] })

/-- `RDSTORE`: `rsp[15:0] = Store[index]`, `rsp[31:16] = 0`, status OK, and nothing else changes; an entry never
written answers its unconstrained power-on value (R109, R32). -/
def Obligations.RdstoreAnswersTheEntry : Prop :=
  ∀ (index : Index) (s : State), ∃ rsp : BitVec 32,
    exec (.rdstore index) s = .next { s with responses := s.responses ++ [{ status := .ok, rsp := rsp }] }
    ∧ rsp.extractLsb' 0 16 = s.readStore index ∧ rsp.extractLsb' 16 16 = 0
    ∧ (Memory.lookup s.store index.toNat = none → rsp.extractLsb' 0 16 = s.cfg.storeInit index)

/-! ### Frames: what the operations leave unchanged and what they read (10_state.md R23) -/

/-- The writes column of R23: only FEED changes the receiver, the store and `pkt_out`; only TXBEGIN and ENCW change
`tx_prev`; only ENCW emits commands; every operation gives one response and no operation touches the port or a
constant. It speaks of every operation: each answers a next state. -/
def Obligations.OperationsWriteOnlyTheirRow : Prop :=
  ∀ (i : Instr) (s : State), ∃ t : State, exec i s = .next t
    ∧ ((∀ c d, i ≠ .feed c d) →
        t.rxWindow = s.rxWindow ∧ t.rxPrev = s.rxPrev ∧ t.store = s.store ∧ t.pktOut = s.pktOut)
    ∧ (i ≠ .txbegin → (∀ index word, i ≠ .encw index word) → t.txPrev = s.txPrev)
    ∧ ((∀ index word, i ≠ .encw index word) → t.txOut = s.txOut)
    ∧ (∃ r, t.responses = s.responses ++ [r] ∧ r.status = .ok)
    ∧ t.port = s.port ∧ t.cfg = s.cfg

/-- The store's frame: FEED writes at most the entry the new window's index field names, and only when the event is
accepted and that window validates; every other entry reads as before, and no other operation changes any (R23, R31). -/
def Obligations.StoreChangesOnlyAtTheFramesIndex : Prop :=
  (∀ (color : Color) (d : BitVec 16) (s t : State), exec (.feed color d) s = .next t →
    (eventIgnored s.cfg s.rxPrev color d.toNat = true ∨ frameValid (nextWindow s color) = false →
      ∀ a : Index, t.readStore a = s.readStore a)
    ∧ (∀ a : Index, a ≠ windowIndex (nextWindow s color) → t.readStore a = s.readStore a))
  ∧ (∀ (i : Instr) (s t : State), (∀ c d, i ≠ .feed c d) → exec i s = .next t →
    ∀ a : Index, t.readStore a = s.readStore a)

/-- The reads column of R23, as what two runs cannot tell apart: the pure operations answer the same in any two
states, and TXBEGIN does the same in any two states; ENCW does the same in states that agree on `tx_prev` and
`DURATION`; FEED does the same in states that agree on `rx_prev`, `rx_window` and `MIN_DURATION`, and where the event
is ignored in one of two states that agree on `rx_prev` and `MIN_DURATION` alone, it is ignored in the other and
answers the same; RDSTORE answers the same in states that agree on the entry it reads. -/
def Obligations.OperationsReadOnlyTheirRow : Prop :=
  ∀ (i : Instr) (s t s' t' : State), exec i s = .next s' → exec i t = .next t' →
    (sideOf i = .pure → ∃ r, s'.responses = s.responses ++ [r] ∧ t'.responses = t.responses ++ [r])
    ∧ (i = .txbegin → s'.txPrev = t'.txPrev ∧ s'.txOut = s.txOut ∧ t'.txOut = t.txOut
        ∧ ∃ r, s'.responses = s.responses ++ [r] ∧ t'.responses = t.responses ++ [r])
    ∧ ((∃ index word, i = .encw index word) → s.txPrev = t.txPrev → s.cfg.duration = t.cfg.duration →
        s'.txPrev = t'.txPrev ∧ ∃ cs r, s'.txOut = s.txOut ++ cs ∧ t'.txOut = t.txOut ++ cs
          ∧ s'.responses = s.responses ++ [r] ∧ t'.responses = t.responses ++ [r])
    ∧ (∀ color d, i = .feed color d → s.rxPrev = t.rxPrev → s.cfg.minDuration = t.cfg.minDuration →
        eventIgnored s.cfg s.rxPrev color d.toNat = true →
        ∃ r, s' = { s with responses := s.responses ++ [r] } ∧ t' = { t with responses := t.responses ++ [r] })
    ∧ ((∃ color d, i = .feed color d) → s.rxPrev = t.rxPrev → s.rxWindow = t.rxWindow →
        s.cfg.minDuration = t.cfg.minDuration →
        s'.rxWindow = t'.rxWindow ∧ s'.rxPrev = t'.rxPrev
        ∧ (∃ ps r, s'.pktOut = s.pktOut ++ ps ∧ t'.pktOut = t.pktOut ++ ps
          ∧ s'.responses = s.responses ++ [r] ∧ t'.responses = t.responses ++ [r])
        ∧ ∀ a : Index, (s'.readStore a = s.readStore a ∧ t'.readStore a = t.readStore a)
          ∨ s'.readStore a = t'.readStore a)
    ∧ (∀ index, i = .rdstore index → s.readStore index = t.readStore index →
        ∃ r, s'.responses = s.responses ++ [r] ∧ t'.responses = t.responses ++ [r])

/-- Operations of different sides commute: swapping two such neighbours changes no final state and no output stream,
and each keeps its own response (R39). -/
def Obligations.SidesCommute : Prop :=
  ∀ (i j : Instr) (s : State), sideOf i ≠ sideOf j → ∃ (t u : State) (a b : Response),
    runInstrs [i, j] s = .next t ∧ runInstrs [j, i] s = .next u
    ∧ { t with responses := [] } = { u with responses := [] }
    ∧ t.responses = s.responses ++ [a, b] ∧ u.responses = s.responses ++ [b, a]

/-- Nothing already in a stream is ever altered, and no step writes a configuration constant (R19, R21, R24). -/
def Obligations.StreamsGrowAndConstantsStay : Prop :=
  ∀ s t : State, step s = .next t →
    s.txOut <+: t.txOut ∧ s.pktOut <+: t.pktOut ∧ s.responses <+: t.responses ∧ t.cfg = s.cfg

/-! ### The invariant -/

/-- The state after reset meets the invariant. -/
def Obligations.ResetMeetsTheInvariant : Prop := State.reset.Inv

/-- Every step keeps the invariant, from every state that meets it: legal constants, a canonical store, each entry the
word of the latest packet with its index, one constant command duration, whole frames on `tx_out` (R20, R30, R38, R93,
R94). -/
def Obligations.EveryStepKeepsTheInvariant : Prop :=
  ∀ s t : State, s.Inv → step s = .next t → t.Inv

/-- The store: a write is read back whole at its own index and nowhere else (R31, R33). -/
def Obligations.StoreReadAfterWrite : Prop :=
  ∀ (cfg : Config) (m : Memory) (a b : Index) (w : Word),
    Memory.read cfg (Memory.write m a w) b = (if b = a then w else Memory.read cfg m b)

/-- In a state that meets the invariant, RDSTORE answers the word of the latest packet emitted with that index, or the
entry's unconstrained power-on value if there was none (R38). -/
def Obligations.RdstoreAnswersTheLatestPacket : Prop :=
  ∀ (index : Index) (s : State), s.Inv → ∃ rsp : BitVec 32,
    exec (.rdstore index) s = .next { s with responses := s.responses ++ [{ status := .ok, rsp := rsp }] }
    ∧ rsp.extractLsb' 0 16 = (latestWord s.pktOut index).getD (s.cfg.storeInit index)

/-! ### CRC-8 (40_crc8.md) -/

/-- The CRC is the remainder of the message times `x^8` by `G`: their sum is divisible by `G`, and a window is valid
exactly when its polynomial, word bytes first, is divisible by `G` (R74). -/
def Obligations.CrcIsThePolynomialRemainder : Prop :=
  (∀ (word : Word) (index : Index),
    crcGenerator ∣ polyOf (crcMessage word index) * Polynomial.X ^ 8 + polyOf (crc8 word index))
  ∧ (∀ w : Window, frameValid w = true ↔
    crcGenerator ∣ polyOf (crcMessage (windowWord w) (windowIndex w) ++ windowChecksum w))

/-- The CRC is linear over GF(2) (R74). -/
def Obligations.CrcIsLinear : Prop :=
  ∀ (w1 w2 : Word) (i1 i2 : Index), crc8 (w1 ^^^ w2) (i1 ^^^ i2) = crc8 w1 i1 ^^^ crc8 w2 i2

/-- The table form: folding a byte in is a look-up in the printed table, whose 256 entries are distinct (R75). -/
def Obligations.CrcTableForm : Prop :=
  (∀ c b : Byte, crcTable[(c ^^^ b).toNat]? = some (crc8Byte c b)) ∧ crcTable.length = 256 ∧ crcTable.Nodup

/-- Flipping any one of the 24 input bits changes the CRC, for every input, and the all-zero frame is valid (R76). -/
def Obligations.CrcDetectsSingleBitFlips : Prop :=
  (∀ (word : Word) (index : Index),
    (∀ k, k < 16 → crc8 (word ^^^ (1 <<< k)) index ≠ crc8 word index)
    ∧ (∀ k, k < 8 → crc8 word (index ^^^ (1 <<< k)) ≠ crc8 word index))
  ∧ frameValid 0 = true

/-- Exactly 2^24 of the 2^32 windows are valid, one checksum for each index and word, 0 among them (R112, R76). -/
def Obligations.ValidWindowsAreCounted : Prop :=
  Nat.card { w : Window // frameValid w = true } = 2 ^ 24
  ∧ (∀ (index : Index) (word : Word), ∃! c : Byte, frameValid (frameOf index word c) = true)
  ∧ frameValid 0 = true

/-! ### The codec (41_codec.md) -/

/-- The forward map in the numbers of R50: for a change of colour, `c` below `p` and `c - 1` above it; for a held
colour, 0. The inverse: `s` below `p`, else `s + 1`, with `s = min(v, 3)` (R89). -/
def Obligations.CodecArithmeticForm : Prop :=
  (∀ prev curr : Color, (symbolForTransition prev curr).toNat =
    if curr = prev then 0
    else if (colorCode curr).toNat < (colorCode prev).toNat then (colorCode curr).toNat
    else (colorCode curr).toNat - 1)
  ∧ (∀ (prev : Color) (v : Nat), (colorCode (colorForSymbol prev v)).toNat =
    if min v 3 < (colorCode prev).toNat then min v 3 else min v 3 + 1)

/-- The round trip: every symbol survives the inverse and the forward map; the other way round a colour comes back
exactly when it is not `prev`, and `prev` itself becomes the neutral partner. For a fixed `prev` the forward map is a
bijection from the four other colours onto 0..3, and over all five colours it is not injective (R85). -/
def Obligations.CodecRoundTrip : Prop :=
  (∀ (prev : Color) (s : Symbol), symbolForTransition prev (colorForSymbol prev s.toNat) = s)
  ∧ (∀ prev curr : Color, colorForSymbol prev (symbolForTransition prev curr).toNat = curr ↔ curr ≠ prev)
  ∧ (∀ prev : Color, colorForSymbol prev (symbolForTransition prev prev).toNat = if prev = .off then .white else .off)
  ∧ (∀ (prev : Color) (s : Symbol), ∃! c : Color, c ≠ prev ∧ symbolForTransition prev c = s)
  ∧ (∀ prev : Color, ¬ Function.Injective (symbolForTransition prev))

/-- The inverse never answers `prev`, and every number of 3 or more is looked up as 3: Green for Blue, Blue for every
other colour (R84, R86). -/
def Obligations.InverseClampsAndNeverHolds : Prop :=
  ∀ (prev : Color) (v : Nat), colorForSymbol prev v ≠ prev
    ∧ (3 ≤ v → colorForSymbol prev v = colorForSymbol prev 3
        ∧ colorForSymbol prev v = if prev = .blue then .green else .blue)

/-! ### Frames on the wire (30_encoding.md R52 to R55) -/

/-- A command on a port: its colour's code above the low `DUR_W` bits, which hold its duration, whole when it fits
(R55; a longer duration loses its upper bits, assumption 11). -/
def Obligations.CommandOnAPort : Prop :=
  ∀ (cfg : Config) (c : Command), (commandPortBits cfg c).extractLsb' cfg.durW 3 = colorCode c.color
    ∧ ((commandPortBits cfg c).extractLsb' 0 cfg.durW).toNat = c.duration % 2 ^ cfg.durW

/-- The window's fields are the frame's fields, and shifting the 16 symbols of a frame into any window, first symbol
first, leaves exactly that frame (R53, R54). -/
def Obligations.ShiftingSixteenSymbolsGivesTheFrame : Prop :=
  (∀ (index : Index) (word : Word) (c : Byte),
    windowIndex (frameOf index word c) = index ∧ windowWord (frameOf index word c) = word
    ∧ windowChecksum (frameOf index word c) = c)
  ∧ (∀ frame w : Window, (frameSymbols frame).foldl shiftIn w = frame)

/-! ### The transmit side (42_serializer.md) -/

/-- Any run of ENCW operations emits exactly 16 commands each, all of the constant duration, and every command is a
change of colour from the one before it, across packets too, the first from `tx_prev` (R93, R95). -/
def Obligations.EveryCommandIsAColorChange : Prop :=
  ∀ (packets : List (Index × Word)) (s : State), ∃ (t : State) (cs : List Command),
    runInstrs (encws packets) s = .next t
    ∧ t.txOut = s.txOut ++ cs ∧ cs.length = 16 * packets.length
    ∧ (∀ c ∈ cs, c.duration = s.cfg.duration)
    ∧ List.IsChain (· ≠ ·) (s.txPrev :: cs.map Command.color)
    ∧ t.txPrev = (cs.map Command.color).getLastD s.txPrev

/-! ### The receive side (43_receiver.md, 70_reset_and_hazards.md) -/

/-- Any number of events that are each too short or of the colour already held change nothing but the responses:
debounce and neutral hold (R101, R111). -/
def Obligations.IgnoredEventsChangeNothing : Prop :=
  ∀ (events : List (Color × BitVec 16)) (s : State),
    (∀ e ∈ events, e.2.toNat < s.cfg.minDuration ∨ e.1 = s.rxPrev) →
    runInstrs (feeds events) s = .next
      { s with responses := s.responses ++ List.replicate events.length { status := .ok, rsp := 0 } }

/-- One clean frame: 16 long enough events with the colours of `serialize(rx_prev, index, word)` leave the frame in the
window whatever it held, and the packet is emitted at the 16th event and stored (R110). -/
def Obligations.CleanFrameIsReceived : Prop :=
  ∀ (s : State) (index : Index) (word : Word) (ds : List (BitVec 16)), ds.length = 16 →
    (∀ d ∈ ds, s.cfg.minDuration ≤ d.toNat) →
    ∃ u t : State, runInstrs ((feedsOf (serialize s.rxPrev index word) ds).take 15) s = .next u
      ∧ runInstrs (feedsOf (serialize s.rxPrev index word) ds) s = .next t
      ∧ t.rxWindow = frameOf index word (crc8 word index) ∧ frameValid t.rxWindow = true
      ∧ t.pktOut = u.pktOut ++ [{ index := index, word := word }]
      ∧ t.readStore index = word

/-- A symbol stays for exactly 16 accepted events: after the 15 that follow the one that shifted it in it is in the
top two bits, and after 16 accepted events two receivers that differed in the window alone hold the same window (R108). -/
def Obligations.WindowForgetsAfterSixteenEvents : Prop :=
  (∀ (s : State) (events : List (Color × BitVec 16)), events.length = 15 → AllAccepted s.cfg s.rxPrev events →
    ∃ t : State, runInstrs (feeds events) s = .next t ∧ t.rxWindow.extractLsb' 30 2 = s.rxWindow.extractLsb' 0 2)
  ∧ (∀ (s : State) (w : Window) (events : List (Color × BitVec 16)), events.length = 16 →
    AllAccepted s.cfg s.rxPrev events →
    ∃ t u : State, runInstrs (feeds events) s = .next t ∧ runInstrs (feeds events) { s with rxWindow := w } = .next u
      ∧ t.rxWindow = u.rxWindow)

/-- Shifted frames: a valid window with `index[7:6]`, `low[7:6]` and `check[7:6]` all 0, followed by an accepted symbol
0, is valid again, and a second packet is emitted and stored (R145). -/
def Obligations.ShiftedFrameValidatesAgain : Prop :=
  ∀ (s : State) (color : Color) (d : BitVec 16), frameValid s.rxWindow = true →
    s.rxWindow.extractLsb' 30 2 = 0 → s.rxWindow.extractLsb' 22 2 = 0 → s.rxWindow.extractLsb' 6 2 = 0 →
    s.cfg.minDuration ≤ d.toNat → color ≠ s.rxPrev → symbolForTransition s.rxPrev color = 0 →
    ∃ t : State, exec (.feed color d) s = .next t ∧ t.rxWindow = s.rxWindow <<< 2 ∧ frameValid t.rxWindow = true
      ∧ (let index : Index := s.rxWindow.extractLsb' 24 8
         let low : Byte := s.rxWindow.extractLsb' 16 8
         let high : Byte := s.rxWindow.extractLsb' 8 8
         let word' : Word := (high.extractLsb' 0 6 ++ (0 : BitVec 2)) ++ (low.extractLsb' 0 6 ++ high.extractLsb' 6 2)
         t.pktOut = s.pktOut ++ [{ index := index <<< 2, word := word' }]
         ∧ t.readStore (index <<< 2) = word')

/-- The all-zero window is valid and stays all-zero under symbol 0: `n` accepted events of symbol 0 emit the packet
(0, 0) `n` times (R146). -/
def Obligations.ZeroWindowRepeatsItsPacket : Prop :=
  ∀ (events : List (Color × BitVec 16)) (s : State), s.rxWindow = 0 → AllAccepted s.cfg s.rxPrev events →
    (∀ k, k < events.length → symbolForTransition ((s.rxPrev :: events.map Prod.fst).getD k .off)
      ((events.map Prod.fst).getD k .off) = 0) →
    ∃ t : State, runInstrs (feeds events) s = .next t ∧ t.rxWindow = 0
      ∧ t.pktOut = s.pktOut ++ List.replicate events.length { index := 0, word := 0 }

/-- The seed does not make early matches impossible: from any reset receiver and for every `k` from 4 to 15 there are
`k` accepted events whose last makes the window valid and emits its packet (R20 and R148, which says it for `k` from 1;
for fewer than 4 it depends on the seed, assumption 15). -/
def Obligations.EarlyMatchIsPossible : Prop :=
  ∀ (s : State) (k : Nat), 4 ≤ k → k ≤ 15 → s.cfg.minDuration < 2 ^ 16 →
    ∃ (events : List (Color × BitVec 16)) (u t : State), events.length = k
      ∧ AllAccepted s.cfg s.resetInput.rxPrev events
      ∧ runInstrs (feeds (events.take (k - 1))) s.resetInput = .next u
      ∧ runInstrs (feeds events) s.resetInput = .next t
      ∧ frameValid t.rxWindow = true ∧ t.pktOut = u.pktOut ++ [windowPacket t.rxWindow]

/-- R148 read literally for one symbol: every non-zero seed has a first symbol that validates. The operation rules
refute it (assumption 15). -/
def Obligations.EverySeedMatchesAfterOneSymbol : Prop :=
  ∀ seed : Window, seed ≠ 0 → ∃ s : Symbol, frameValid (shiftIn seed s) = true

/-! ### The link (70_reset_and_hazards.md R142, R151) -/

/-- REPLAY delivers every command once, in order, with its colour and duration unchanged, when the durations fit the
port (R67, R153), and so it is a channel whose driver conforms (R96). -/
def Obligations.ReplayIsAConformingChannel : Prop :=
  ∀ (cfg : Config) (cs : List Command), cfg.wellFormed = true → (∀ c ∈ cs, c.duration < 2 ^ cfg.durW) →
    ∃ events : List (Color × BitVec 16), replayInstrs cfg cs = feeds events
      ∧ events.map (fun e => (e.1, e.2.toNat)) = cs.map (fun c => (c.color, c.duration))
      ∧ DriverConforms cs (events.map (fun e => (e.1, e.2.toNat)))

/-- When every command of a message is held for at least its duration, in order, and sender and receiver both start
from Off, every genuine packet arrives at the last symbol of its frame, in order; and an entry whose genuine packet no
later packet of its index follows holds the sent word (R151, R110). -/
def Obligations.LinkDeliversEveryGenuinePacket : Prop :=
  ∀ (words : List Word) (snd rcv : State), words.length ≤ 256 → rcv.rxPrev = .off →
    rcv.cfg.minDuration ≤ snd.cfg.duration →
    ∃ (snd' : State) (cs : List Command),
      runInstrs (.txbegin :: encwFrom 0 words) snd = .next snd' ∧ snd'.txOut = snd.txOut ++ cs
      ∧ ∀ events : List (Color × BitVec 16), DriverConforms cs (events.map (fun e => (e.1, e.2.toNat))) →
        ∃ (rcv' : State) (ps : List Packet),
          runInstrs (feeds events) rcv = .next rcv' ∧ rcv'.pktOut = rcv.pktOut ++ ps
          ∧ ∀ k word, words[k]? = some word →
            (∃ u v : State, runInstrs (feeds (events.take (16 * k + 15))) rcv = .next u
              ∧ runInstrs (feeds (events.take (16 * k + 16))) rcv = .next v
              ∧ v.pktOut = u.pktOut ++ [{ index := BitVec.ofNat 8 k, word := word }])
            ∧ (∀ pre post, ps = pre ++ { index := BitVec.ofNat 8 k, word := word } :: post →
                (∀ p ∈ post, p.index ≠ BitVec.ofNat 8 k) →
                rcv'.readStore (BitVec.ofNat 8 k) = word)

/-- Previous-colour disagreement costs at most the first frame: whatever the receiver's previous colour, after each
event it is the sender's, and every frame of the sequence but the first is received (R142). -/
def Obligations.DisagreementCostsOnlyTheFirstFrame : Prop :=
  ∀ (words : List Word) (snd rcv : State), words.length ≤ 256 → rcv.cfg.minDuration ≤ snd.cfg.duration →
    ∃ (snd' : State) (cs : List Command),
      runInstrs (.txbegin :: encwFrom 0 words) snd = .next snd' ∧ snd'.txOut = snd.txOut ++ cs
      ∧ ∀ events : List (Color × BitVec 16), DriverConforms cs (events.map (fun e => (e.1, e.2.toNat))) →
        (∀ n, 0 < n → n ≤ cs.length → ∃ u : State, runInstrs (feeds (events.take n)) rcv = .next u
          ∧ some u.rxPrev = (cs.map Command.color)[n - 1]?)
        ∧ (∀ k word, 0 < k → words[k]? = some word →
          ∃ u v : State, runInstrs (feeds (events.take (16 * k + 15))) rcv = .next u
            ∧ runInstrs (feeds (events.take (16 * k + 16))) rcv = .next v
            ∧ v.pktOut = u.pktOut ++ [{ index := BitVec.ofNat 8 k, word := word }])

/-! ### The host side (20_memory.md R36, R37) -/

/-- Packing: ceil(n/2) words at most `TX_CAPACITY` of them, word `k` with low byte `b[2k]` and high byte `b[2k+1]`, or
0 past the end, sent as TXBEGIN and then ENCW with indexes 0, 1, ... in order (R36, R97). -/
def Obligations.SendPacksLittleEndian : Prop :=
  ∀ (cfg : Config) (bytes : List Byte), 1 ≤ cfg.txCapacity → cfg.txCapacity ≤ 256 →
    ∃ is : List Instr, sendInstrs cfg bytes = some (.txbegin :: is)
      ∧ is.length = min ((bytes.length + 1) / 2) cfg.txCapacity
      ∧ ∀ k, k < is.length →
          is[k]? = some (.encw (BitVec.ofNat 8 k) (bytes.getD (2 * k + 1) 0 ++ bytes.getD (2 * k) 0))

/-- The dump: 256 RDSTORE operations change nothing but the responses and give 512 bytes, `out[2i]` the low and
`out[2i+1]` the high byte of entry `i` (R37). -/
def Obligations.DumpIsTheWholeStoreLittleEndian : Prop :=
  ∀ s : State, ∃ rs : List Response,
    runInstrs dumpInstrs s = .next { s with responses := s.responses ++ rs }
    ∧ (dumpBytes rs).length = 512
    ∧ ∀ i, i < 256 →
        (dumpBytes rs)[2 * i]? = some ((s.readStore (BitVec.ofNat 8 i)).extractLsb' 0 8)
        ∧ (dumpBytes rs)[2 * i + 1]? = some ((s.readStore (BitVec.ofNat 8 i)).extractLsb' 8 8)

/-- A host that issues the command words of a list of operations, one after the other, to a block whose port is empty
leaves the block as those operations in that order leave it (R38, R57). -/
def Obligations.SessionRunsTheIssuedOperations : Prop :=
  ∀ (h : Session) (is : List Instr), h.block.port = [] →
    ∃ t : State, runInstrs is h.block = .next t ∧ (h.issueAll (commandWords is)).block = t
end

