-- ==== Sys2Proof/Laws/Codec.lean ====
section
/-! SUPPORT. The codec's two maps, colour by colour, so that no later proof unfolds a scan of the alphabet. -/

namespace Sys2Proof.Machine

/-- The colours other than `prev` in declaration order (R80). -/
theorem otherColors_eq (prev : Color) : otherColors prev =
    match prev with
    | .off => [.white, .red, .green, .blue]
    | .white => [.off, .red, .green, .blue]
    | .red => [.off, .white, .green, .blue]
    | .green => [.off, .white, .red, .blue]
    | .blue => [.off, .white, .red, .green] := by
  cases prev <;> rfl

/-- A held colour is symbol 0 (R80). -/
@[simp] theorem symbolForTransition_self (c : Color) : symbolForTransition c c = 0 := by
  simp [symbolForTransition]

/-- The inverse map depends on its number through the clamp alone (R84). -/
theorem colorForSymbol_of_clamp_eq {prev : Color} {v v' : Nat} (h : clampSymbol v = clampSymbol v') :
    colorForSymbol prev v = colorForSymbol prev v' := by
  simp [colorForSymbol, h]

/-- A symbol is its own clamp (R12). -/
@[simp] theorem clampSymbol_toNat (s : Symbol) : clampSymbol s.toNat = s := by
  have h : s.toNat < 4 := s.isLt
  rw [clampSymbol, Nat.min_eq_left (by omega), BitVec.ofNat_toNat, BitVec.setWidth_eq]

end Sys2Proof.Machine
end

