-- ==== Sys2Proof/Laws/Crc.lean ====
section
/-! SUPPORT. One shift of the CRC remainder is linear over GF(2), and so is any number of shifts. -/

namespace Sys2Proof.Machine

/-- A mask folded into both operands cancels. -/
theorem byte_xor_cancel (x y z : Byte) : x ^^^ y = (x ^^^ z) ^^^ (y ^^^ z) := by
  rw [BitVec.xor_assoc, BitVec.xor_comm y z, ← BitVec.xor_assoc z z y, BitVec.xor_self, BitVec.zero_xor]

/-- The tested bit of a sum is the sum of the tested bits, so one shift is linear (R71). -/
theorem crc8Shift_xor (a b : Byte) : crc8Shift (a ^^^ b) = crc8Shift a ^^^ crc8Shift b := by
  unfold crc8Shift
  rw [BitVec.msb_xor, BitVec.shiftLeft_xor_distrib]
  cases a.msb <;> cases b.msb <;> simp
  · ac_rfl
  · ac_rfl
  · exact byte_xor_cancel _ _ _

theorem crc8Shifts_xor (n : Nat) (a b : Byte) : crc8Shifts n (a ^^^ b) = crc8Shifts n a ^^^ crc8Shifts n b := by
  induction n generalizing a b with
  | zero => rfl
  | succ n ih => simp only [crc8Shifts, crc8Shift_xor, ih]

end Sys2Proof.Machine
end

