-- ==== Sys2Proof/Laws/Memory.lean ====
section
/-! SUPPORT. The laws of the received-word store: reading after a write, the canonical form, and that equal stores
are equal data. -/

namespace Sys2Proof.Machine

@[simp] theorem Memory.lookup_nil (a : Nat) : Memory.lookup [] a = none := rfl

theorem Memory.lookup_insert_same (m : Memory) (a : Nat) (w : Word) :
    Memory.lookup (Memory.insert m a w) a = some w := by
  induction m with
  | nil => simp [Memory.insert, Memory.lookup]
  | cons e m ih =>
    obtain ⟨b, v⟩ := e
    unfold Memory.insert
    split
    · simp [Memory.lookup]
    · split
      · simp [Memory.lookup]
      · next h => simpa [Memory.lookup, h] using ih

theorem Memory.lookup_insert_other (m : Memory) {a b : Nat} (w : Word) (h : b ≠ a) :
    Memory.lookup (Memory.insert m a w) b = Memory.lookup m b := by
  induction m with
  | nil => simp [Memory.insert, Memory.lookup, h]
  | cons e m ih =>
    obtain ⟨c, v⟩ := e
    unfold Memory.insert
    split
    · simp [Memory.lookup, h]
    · split
      · next hac => subst hac; simp [Memory.lookup, h]
      · simp [Memory.lookup, ih]

/-- One spec lemma for the store's write: what every look-up answers after it (R31). -/
theorem Memory.lookup_insert (m : Memory) (a b : Nat) (w : Word) :
    Memory.lookup (Memory.insert m a w) b = if b = a then some w else Memory.lookup m b := by
  split
  · next h => subst h; exact Memory.lookup_insert_same m b w
  · next h => exact Memory.lookup_insert_other m w h

/-- The entries of a list with one entry set are that entry and entries it already had. -/
theorem Memory.mem_insert {m : Memory} {a : Nat} {w : Word} {e : Nat × Word} (h : e ∈ Memory.insert m a w) :
    e = (a, w) ∨ e ∈ m := by
  induction m with
  | nil => simpa [Memory.insert] using h
  | cons f m ih =>
    obtain ⟨c, v⟩ := f
    unfold Memory.insert at h
    split at h
    · simpa using h
    · split at h
      · rcases List.mem_cons.mp h with h | h
        · exact .inl h
        · exact .inr (List.mem_cons_of_mem _ h)
      · rcases List.mem_cons.mp h with h | h
        · exact .inr (h ▸ List.mem_cons_self)
        · exact (ih h).imp id (List.mem_cons_of_mem _)

/-- The canonical form, unfolded once: the head is in range and below every other entry. -/
theorem Memory.wf_cons (a : Nat) (w : Word) (m : Memory) :
    Memory.wf ((a, w) :: m) = true ↔ a < 256 ∧ (∀ e ∈ m, a < e.1) ∧ Memory.wf m = true := by
  simp [Memory.wf, and_assoc]

/-- Setting an entry keeps the canonical form. -/
theorem Memory.insert_wf (m : Memory) (a : Nat) (w : Word) (ha : a < 256) (h : Memory.wf m = true) :
    Memory.wf (Memory.insert m a w) = true := by
  induction m with
  | nil => simp [Memory.insert, Memory.wf, ha]
  | cons e m ih =>
    obtain ⟨c, v⟩ := e
    have hc := (Memory.wf_cons c v m).mp h
    unfold Memory.insert
    split
    · next hac =>
      refine (Memory.wf_cons _ _ _).mpr ⟨ha, ?_, h⟩
      intro e he
      rcases List.mem_cons.mp he with rfl | he
      · exact hac
      · exact hac.trans (hc.2.1 e he)
    · split
      · next hac => subst hac; exact (Memory.wf_cons _ _ _).mpr hc
      · next h1 h2 =>
        refine (Memory.wf_cons _ _ _).mpr ⟨hc.1, ?_, ih hc.2.2⟩
        intro e he
        rcases Memory.mem_insert he with rfl | he
        · simp only; omega
        · exact hc.2.1 e he

/-- The store's one write keeps the canonical form (R31). -/
theorem Memory.write_wf (m : Memory) (i : Index) (w : Word) (h : Memory.wf m = true) :
    Memory.wf (Memory.write m i w) = true :=
  Memory.insert_wf m i.toNat w i.isLt h

/-- Nothing is listed after the first reset (R24). -/
theorem State.reset_store_wf : Memory.wf State.reset.store = true := rfl

/-- An entry below every index of the list is not listed. -/
theorem Memory.lookup_eq_none_of_lt {m : Memory} {a : Nat} (h : ∀ e ∈ m, a < e.1) : Memory.lookup m a = none := by
  induction m with
  | nil => rfl
  | cons e m ih =>
    obtain ⟨c, v⟩ := e
    have hc : a < c := h (c, v) List.mem_cons_self
    rw [Memory.lookup, if_neg (by omega)]
    exact ih (fun e he => h e (List.mem_cons_of_mem _ he))

/-- Two canonical stores that list the same word for every index are the same list. -/
theorem Memory.ext_of_wf {m n : Memory} (hm : Memory.wf m = true) (hn : Memory.wf n = true)
    (h : ∀ a, Memory.lookup m a = Memory.lookup n a) : m = n := by
  induction m generalizing n with
  | nil =>
    cases n with
    | nil => rfl
    | cons f n => have := h f.1; simp [Memory.lookup] at this
  | cons e m ih =>
    obtain ⟨a, v⟩ := e
    have ha := (Memory.wf_cons a v m).mp hm
    cases n with
    | nil => have := h a; simp [Memory.lookup] at this
    | cons f n =>
      obtain ⟨b, w⟩ := f
      have hb := (Memory.wf_cons b w n).mp hn
      have hab : a = b := by
        rcases Nat.lt_trichotomy a b with hlt | heq | hgt
        · have h1 := h a
          rw [Memory.lookup_eq_none_of_lt (m := (b, w) :: n) (by
            intro e he
            rcases List.mem_cons.mp he with rfl | he
            · exact hlt
            · exact hlt.trans (hb.2.1 e he))] at h1
          simp [Memory.lookup] at h1
        · exact heq
        · have h1 := h b
          rw [Memory.lookup_eq_none_of_lt (m := (a, v) :: m) (by
            intro e he
            rcases List.mem_cons.mp he with rfl | he
            · exact hgt
            · exact hgt.trans (ha.2.1 e he))] at h1
          simp [Memory.lookup] at h1
      subst hab
      have hv : v = w := by have h1 := h a; simpa [Memory.lookup] using h1
      subst hv
      congr 1
      refine ih ha.2.2 hb.2.2 (fun c => ?_)
      by_cases hca : c = a
      · rw [hca, Memory.lookup_eq_none_of_lt ha.2.1, Memory.lookup_eq_none_of_lt hb.2.1]
      · have h1 := h c
        rwa [Memory.lookup, if_neg hca, Memory.lookup, if_neg hca] at h1

end Sys2Proof.Machine
end

