-- ==== Sys2Proof/Laws/State.lean ====
section
/-! SUPPORT. One lemma per field and named update of State, so that no proof unfolds a record update. -/

namespace Sys2Proof.Machine

/-! `State.respond` -/

@[simp] theorem State.respond_rxWindow (s : State) (st : Status) (r : BitVec 32) :
    (s.respond st r).rxWindow = s.rxWindow := rfl
@[simp] theorem State.respond_rxPrev (s : State) (st : Status) (r : BitVec 32) :
    (s.respond st r).rxPrev = s.rxPrev := rfl
@[simp] theorem State.respond_txPrev (s : State) (st : Status) (r : BitVec 32) :
    (s.respond st r).txPrev = s.txPrev := rfl
@[simp] theorem State.respond_store (s : State) (st : Status) (r : BitVec 32) :
    (s.respond st r).store = s.store := rfl
@[simp] theorem State.respond_txOut (s : State) (st : Status) (r : BitVec 32) :
    (s.respond st r).txOut = s.txOut := rfl
@[simp] theorem State.respond_pktOut (s : State) (st : Status) (r : BitVec 32) :
    (s.respond st r).pktOut = s.pktOut := rfl
@[simp] theorem State.respond_responses (s : State) (st : Status) (r : BitVec 32) :
    (s.respond st r).responses = s.responses ++ [{ status := st, rsp := r }] := rfl
@[simp] theorem State.respond_port (s : State) (st : Status) (r : BitVec 32) :
    (s.respond st r).port = s.port := rfl
@[simp] theorem State.respond_cfg (s : State) (st : Status) (r : BitVec 32) :
    (s.respond st r).cfg = s.cfg := rfl

/-! `State.emitCommands` -/

@[simp] theorem State.emitCommands_rxWindow (s : State) (cs : List Command) :
    (s.emitCommands cs).rxWindow = s.rxWindow := rfl
@[simp] theorem State.emitCommands_rxPrev (s : State) (cs : List Command) :
    (s.emitCommands cs).rxPrev = s.rxPrev := rfl
@[simp] theorem State.emitCommands_txPrev (s : State) (cs : List Command) :
    (s.emitCommands cs).txPrev = s.txPrev := rfl
@[simp] theorem State.emitCommands_store (s : State) (cs : List Command) :
    (s.emitCommands cs).store = s.store := rfl
@[simp] theorem State.emitCommands_txOut (s : State) (cs : List Command) :
    (s.emitCommands cs).txOut = s.txOut ++ cs := rfl
@[simp] theorem State.emitCommands_pktOut (s : State) (cs : List Command) :
    (s.emitCommands cs).pktOut = s.pktOut := rfl
@[simp] theorem State.emitCommands_responses (s : State) (cs : List Command) :
    (s.emitCommands cs).responses = s.responses := rfl
@[simp] theorem State.emitCommands_port (s : State) (cs : List Command) :
    (s.emitCommands cs).port = s.port := rfl
@[simp] theorem State.emitCommands_cfg (s : State) (cs : List Command) :
    (s.emitCommands cs).cfg = s.cfg := rfl

/-! `State.emitPacket` -/

@[simp] theorem State.emitPacket_rxWindow (s : State) (p : Packet) :
    (s.emitPacket p).rxWindow = s.rxWindow := rfl
@[simp] theorem State.emitPacket_rxPrev (s : State) (p : Packet) :
    (s.emitPacket p).rxPrev = s.rxPrev := rfl
@[simp] theorem State.emitPacket_txPrev (s : State) (p : Packet) :
    (s.emitPacket p).txPrev = s.txPrev := rfl
@[simp] theorem State.emitPacket_store (s : State) (p : Packet) :
    (s.emitPacket p).store = s.store := rfl
@[simp] theorem State.emitPacket_txOut (s : State) (p : Packet) :
    (s.emitPacket p).txOut = s.txOut := rfl
@[simp] theorem State.emitPacket_pktOut (s : State) (p : Packet) :
    (s.emitPacket p).pktOut = s.pktOut ++ [p] := rfl
@[simp] theorem State.emitPacket_responses (s : State) (p : Packet) :
    (s.emitPacket p).responses = s.responses := rfl
@[simp] theorem State.emitPacket_port (s : State) (p : Packet) :
    (s.emitPacket p).port = s.port := rfl
@[simp] theorem State.emitPacket_cfg (s : State) (p : Packet) :
    (s.emitPacket p).cfg = s.cfg := rfl

/-! `State.writeStore` -/

@[simp] theorem State.writeStore_rxWindow (s : State) (i : Index) (w : Word) :
    (s.writeStore i w).rxWindow = s.rxWindow := rfl
@[simp] theorem State.writeStore_rxPrev (s : State) (i : Index) (w : Word) :
    (s.writeStore i w).rxPrev = s.rxPrev := rfl
@[simp] theorem State.writeStore_txPrev (s : State) (i : Index) (w : Word) :
    (s.writeStore i w).txPrev = s.txPrev := rfl
@[simp] theorem State.writeStore_store (s : State) (i : Index) (w : Word) :
    (s.writeStore i w).store = Memory.write s.store i w := rfl
@[simp] theorem State.writeStore_txOut (s : State) (i : Index) (w : Word) :
    (s.writeStore i w).txOut = s.txOut := rfl
@[simp] theorem State.writeStore_pktOut (s : State) (i : Index) (w : Word) :
    (s.writeStore i w).pktOut = s.pktOut := rfl
@[simp] theorem State.writeStore_responses (s : State) (i : Index) (w : Word) :
    (s.writeStore i w).responses = s.responses := rfl
@[simp] theorem State.writeStore_port (s : State) (i : Index) (w : Word) :
    (s.writeStore i w).port = s.port := rfl
@[simp] theorem State.writeStore_cfg (s : State) (i : Index) (w : Word) :
    (s.writeStore i w).cfg = s.cfg := rfl

/-! `State.setTxPrev` -/

@[simp] theorem State.setTxPrev_rxWindow (s : State) (c : Color) :
    (s.setTxPrev c).rxWindow = s.rxWindow := rfl
@[simp] theorem State.setTxPrev_rxPrev (s : State) (c : Color) :
    (s.setTxPrev c).rxPrev = s.rxPrev := rfl
@[simp] theorem State.setTxPrev_txPrev (s : State) (c : Color) :
    (s.setTxPrev c).txPrev = c := rfl
@[simp] theorem State.setTxPrev_store (s : State) (c : Color) :
    (s.setTxPrev c).store = s.store := rfl
@[simp] theorem State.setTxPrev_txOut (s : State) (c : Color) :
    (s.setTxPrev c).txOut = s.txOut := rfl
@[simp] theorem State.setTxPrev_pktOut (s : State) (c : Color) :
    (s.setTxPrev c).pktOut = s.pktOut := rfl
@[simp] theorem State.setTxPrev_responses (s : State) (c : Color) :
    (s.setTxPrev c).responses = s.responses := rfl
@[simp] theorem State.setTxPrev_port (s : State) (c : Color) :
    (s.setTxPrev c).port = s.port := rfl
@[simp] theorem State.setTxPrev_cfg (s : State) (c : Color) :
    (s.setTxPrev c).cfg = s.cfg := rfl

/-! `State.setRxWindow` -/

@[simp] theorem State.setRxWindow_rxWindow (s : State) (w : Window) :
    (s.setRxWindow w).rxWindow = w := rfl
@[simp] theorem State.setRxWindow_rxPrev (s : State) (w : Window) :
    (s.setRxWindow w).rxPrev = s.rxPrev := rfl
@[simp] theorem State.setRxWindow_txPrev (s : State) (w : Window) :
    (s.setRxWindow w).txPrev = s.txPrev := rfl
@[simp] theorem State.setRxWindow_store (s : State) (w : Window) :
    (s.setRxWindow w).store = s.store := rfl
@[simp] theorem State.setRxWindow_txOut (s : State) (w : Window) :
    (s.setRxWindow w).txOut = s.txOut := rfl
@[simp] theorem State.setRxWindow_pktOut (s : State) (w : Window) :
    (s.setRxWindow w).pktOut = s.pktOut := rfl
@[simp] theorem State.setRxWindow_responses (s : State) (w : Window) :
    (s.setRxWindow w).responses = s.responses := rfl
@[simp] theorem State.setRxWindow_port (s : State) (w : Window) :
    (s.setRxWindow w).port = s.port := rfl
@[simp] theorem State.setRxWindow_cfg (s : State) (w : Window) :
    (s.setRxWindow w).cfg = s.cfg := rfl

/-! `State.setRxPrev` -/

@[simp] theorem State.setRxPrev_rxWindow (s : State) (c : Color) :
    (s.setRxPrev c).rxWindow = s.rxWindow := rfl
@[simp] theorem State.setRxPrev_rxPrev (s : State) (c : Color) :
    (s.setRxPrev c).rxPrev = c := rfl
@[simp] theorem State.setRxPrev_txPrev (s : State) (c : Color) :
    (s.setRxPrev c).txPrev = s.txPrev := rfl
@[simp] theorem State.setRxPrev_store (s : State) (c : Color) :
    (s.setRxPrev c).store = s.store := rfl
@[simp] theorem State.setRxPrev_txOut (s : State) (c : Color) :
    (s.setRxPrev c).txOut = s.txOut := rfl
@[simp] theorem State.setRxPrev_pktOut (s : State) (c : Color) :
    (s.setRxPrev c).pktOut = s.pktOut := rfl
@[simp] theorem State.setRxPrev_responses (s : State) (c : Color) :
    (s.setRxPrev c).responses = s.responses := rfl
@[simp] theorem State.setRxPrev_port (s : State) (c : Color) :
    (s.setRxPrev c).port = s.port := rfl
@[simp] theorem State.setRxPrev_cfg (s : State) (c : Color) :
    (s.setRxPrev c).cfg = s.cfg := rfl

/-! `State.advance` -/

@[simp] theorem State.advance_rxWindow (s : State) :
    s.advance.rxWindow = s.rxWindow := rfl
@[simp] theorem State.advance_rxPrev (s : State) :
    s.advance.rxPrev = s.rxPrev := rfl
@[simp] theorem State.advance_txPrev (s : State) :
    s.advance.txPrev = s.txPrev := rfl
@[simp] theorem State.advance_store (s : State) :
    s.advance.store = s.store := rfl
@[simp] theorem State.advance_txOut (s : State) :
    s.advance.txOut = s.txOut := rfl
@[simp] theorem State.advance_pktOut (s : State) :
    s.advance.pktOut = s.pktOut := rfl
@[simp] theorem State.advance_responses (s : State) :
    s.advance.responses = s.responses := rfl
@[simp] theorem State.advance_port (s : State) :
    s.advance.port = s.port.tail := rfl
@[simp] theorem State.advance_cfg (s : State) :
    s.advance.cfg = s.cfg := rfl

/-! `State.resetInput` -/

@[simp] theorem State.resetInput_rxWindow (s : State) :
    s.resetInput.rxWindow = s.cfg.windowSeed := rfl
@[simp] theorem State.resetInput_rxPrev (s : State) :
    s.resetInput.rxPrev = .off := rfl
@[simp] theorem State.resetInput_txPrev (s : State) :
    s.resetInput.txPrev = .off := rfl
@[simp] theorem State.resetInput_store (s : State) :
    s.resetInput.store = s.store := rfl
@[simp] theorem State.resetInput_txOut (s : State) :
    s.resetInput.txOut = s.txOut := rfl
@[simp] theorem State.resetInput_pktOut (s : State) :
    s.resetInput.pktOut = s.pktOut := rfl
@[simp] theorem State.resetInput_responses (s : State) :
    s.resetInput.responses = s.responses := rfl
@[simp] theorem State.resetInput_port (s : State) :
    s.resetInput.port = s.port := rfl
@[simp] theorem State.resetInput_cfg (s : State) :
    s.resetInput.cfg = s.cfg := rfl

/-! `State.refuseWord` -/

@[simp] theorem State.refuseWord_rxWindow (s : State) :
    s.refuseWord.rxWindow = s.rxWindow := rfl
@[simp] theorem State.refuseWord_rxPrev (s : State) :
    s.refuseWord.rxPrev = s.rxPrev := rfl
@[simp] theorem State.refuseWord_txPrev (s : State) :
    s.refuseWord.txPrev = s.txPrev := rfl
@[simp] theorem State.refuseWord_store (s : State) :
    s.refuseWord.store = s.store := rfl
@[simp] theorem State.refuseWord_txOut (s : State) :
    s.refuseWord.txOut = s.txOut := rfl
@[simp] theorem State.refuseWord_pktOut (s : State) :
    s.refuseWord.pktOut = s.pktOut := rfl
@[simp] theorem State.refuseWord_responses (s : State) :
    s.refuseWord.responses = s.responses ++ [{ status := .err, rsp := 0 }] := rfl
@[simp] theorem State.refuseWord_port (s : State) :
    s.refuseWord.port = s.port := rfl
@[simp] theorem State.refuseWord_cfg (s : State) :
    s.refuseWord.cfg = s.cfg := rfl

/-! `State.readStore` sees the store and the draw alone -/

@[simp] theorem State.respond_readStore (s : State) (st : Status) (r : BitVec 32) (i : Index) :
    (s.respond st r).readStore i = s.readStore i := rfl
@[simp] theorem State.emitCommands_readStore (s : State) (cs : List Command) (i : Index) :
    (s.emitCommands cs).readStore i = s.readStore i := rfl
@[simp] theorem State.emitPacket_readStore (s : State) (p : Packet) (i : Index) :
    (s.emitPacket p).readStore i = s.readStore i := rfl
@[simp] theorem State.setTxPrev_readStore (s : State) (c : Color) (i : Index) :
    (s.setTxPrev c).readStore i = s.readStore i := rfl
@[simp] theorem State.setRxWindow_readStore (s : State) (w : Window) (i : Index) :
    (s.setRxWindow w).readStore i = s.readStore i := rfl
@[simp] theorem State.setRxPrev_readStore (s : State) (c : Color) (i : Index) :
    (s.setRxPrev c).readStore i = s.readStore i := rfl
@[simp] theorem State.advance_readStore (s : State) (i : Index) :
    s.advance.readStore i = s.readStore i := rfl
@[simp] theorem State.resetInput_readStore (s : State) (i : Index) :
    s.resetInput.readStore i = s.readStore i := rfl
@[simp] theorem State.refuseWord_readStore (s : State) (i : Index) :
    s.refuseWord.readStore i = s.readStore i := rfl

end Sys2Proof.Machine
end

