-- ==== Sys2Proof/Laws/Ops.lean ====
section
/-! SUPPORT. One lemma per shared operation that says everything it can do: what the port holds, delivering a window,
one event, the meanings as named updates, and one step. -/

namespace Sys2Proof.Machine

/-! What the port holds next -/

@[simp] theorem fetch_idle {s : State} (h : s.port = []) : fetch s = .idle := by
  simp [fetch, h]

@[simp] theorem fetch_reset {s : State} {rest : List PortEvent} (h : s.port = .reset :: rest) : fetch s = .reset := by
  simp [fetch, h]

theorem fetch_operation {s : State} {w : CmdWord} {rest : List PortEvent} {i : Instr} (h : s.port = .cmd w :: rest)
    (hd : decode w = .ok i) : fetch s = .operation i := by
  simp [fetch, h, hd]

theorem fetch_malformed {s : State} {w : CmdWord} {rest : List PortEvent} {why : Illegal}
    (h : s.port = .cmd w :: rest) (hd : decode w = .illegal why) : fetch s = .malformed why := by
  simp [fetch, h, hd]

/-! Delivering a window and taking an event (R100 to R106) -/

theorem deliver_valid {w : Window} (s : State) (h : frameValid w = true) :
    deliver w s = ((s.writeStore (windowIndex w) (windowWord w)).emitPacket (windowPacket w)).respond .ok
      (rspPacket (windowPacket w)) := by
  simp [deliver, h]

theorem deliver_invalid {w : Window} (s : State) (h : frameValid w = false) : deliver w s = s.respond .ok rspNone := by
  simp [deliver, h]

theorem eventIgnored_iff (cfg : Config) (prev color : Color) (d : Nat) :
    eventIgnored cfg prev color d = true ↔ d < cfg.minDuration ∨ color = prev := by
  simp [eventIgnored]

theorem frameValid_iff (w : Window) :
    frameValid w = true ↔ windowChecksum w = crc8 (windowWord w) (windowIndex w) := by
  simp [frameValid]

/-- Everything one event can do: it is ignored, or its symbol is shifted in and the new window delivered or not. -/
theorem feedEvent_cases (color : Color) (d : Nat) (s : State) :
    ((d < s.cfg.minDuration ∨ color = s.rxPrev) ∧ feedEvent color d s = s.respond .ok rspNone)
    ∨ (s.cfg.minDuration ≤ d ∧ color ≠ s.rxPrev ∧ frameValid (nextWindow s color) = false
        ∧ feedEvent color d s = ((s.setRxWindow (nextWindow s color)).respond .ok rspNone).setRxPrev color)
    ∨ (s.cfg.minDuration ≤ d ∧ color ≠ s.rxPrev ∧ frameValid (nextWindow s color) = true
        ∧ feedEvent color d s =
          ((((s.setRxWindow (nextWindow s color)).writeStore (windowIndex (nextWindow s color))
            (windowWord (nextWindow s color))).emitPacket (windowPacket (nextWindow s color))).respond .ok
            (rspPacket (windowPacket (nextWindow s color)))).setRxPrev color) := by
  by_cases hi : d < s.cfg.minDuration ∨ color = s.rxPrev
  · exact .inl ⟨hi, by simp [feedEvent, (eventIgnored_iff _ _ _ _).mpr hi]⟩
  · have hf : eventIgnored s.cfg s.rxPrev color d = false := by
      rw [← Bool.not_eq_true, eventIgnored_iff]; exact hi
    obtain ⟨h1, h2⟩ := not_or.mp hi
    cases hv : frameValid (nextWindow s color) with
    | false =>
      exact .inr (.inl ⟨by omega, h2, rfl, by simp [feedEvent, hf, acceptEvent, deliver_invalid _ hv]⟩)
    | true =>
      exact .inr (.inr ⟨by omega, h2, rfl, by simp [feedEvent, hf, acceptEvent, deliver_valid _ hv]⟩)

/-! What no event touches (R23) -/

@[simp] theorem feedEvent_txPrev (color : Color) (d : Nat) (s : State) : (feedEvent color d s).txPrev = s.txPrev := by
  rcases feedEvent_cases color d s with ⟨_, e⟩ | ⟨_, _, _, e⟩ | ⟨_, _, _, e⟩ <;> simp [e]

@[simp] theorem feedEvent_txOut (color : Color) (d : Nat) (s : State) : (feedEvent color d s).txOut = s.txOut := by
  rcases feedEvent_cases color d s with ⟨_, e⟩ | ⟨_, _, _, e⟩ | ⟨_, _, _, e⟩ <;> simp [e]

@[simp] theorem feedEvent_port (color : Color) (d : Nat) (s : State) : (feedEvent color d s).port = s.port := by
  rcases feedEvent_cases color d s with ⟨_, e⟩ | ⟨_, _, _, e⟩ | ⟨_, _, _, e⟩ <;> simp [e]

@[simp] theorem feedEvent_cfg (color : Color) (d : Nat) (s : State) : (feedEvent color d s).cfg = s.cfg := by
  rcases feedEvent_cases color d s with ⟨_, e⟩ | ⟨_, _, _, e⟩ | ⟨_, _, _, e⟩ <;> simp [e]

/-! The meanings as named updates -/

theorem exec_crc8 (word : Word) (index : Index) (s : State) :
    exec (.crc8 word index) s = .next (s.respond .ok (rspCrc (crc8 word index))) := rfl

theorem exec_symf (prev curr : Color) (s : State) :
    exec (.symf prev curr) s = .next (s.respond .ok (rspSymbol (symbolForTransition prev curr))) := rfl

theorem exec_symi (prev : Color) (v : Byte) (s : State) :
    exec (.symi prev v) s = .next (s.respond .ok (rspColor (colorForSymbol prev v.toNat))) := rfl

theorem exec_txbegin (s : State) : exec .txbegin s = .next ((s.setTxPrev .off).respond .ok rspNone) := rfl

theorem exec_encw (index : Index) (word : Word) (s : State) :
    exec (.encw index word) s = .next (((s.emitCommands ((serialize s.txPrev index word).map (commandOf s.cfg))).setTxPrev
      (lastColor s.txPrev (serialize s.txPrev index word))).respond .ok rspNone) := rfl

theorem exec_feed (color : Color) (d : BitVec 16) (s : State) :
    exec (.feed color d) s = .next (feedEvent color d.toNat s) := rfl

theorem exec_rdstore (index : Index) (s : State) :
    exec (.rdstore index) s = .next (s.respond .ok (rspWord (s.readStore index))) := rfl

/-! One step -/

/-- Everything a step that answers a next state can have done. -/
theorem step_cases {s t : State} (h : step s = .next t) :
    (s.port = [] ∧ t = s)
    ∨ (∃ rest, s.port = .reset :: rest ∧ t = s.advance.resetInput)
    ∨ (∃ w why rest, s.port = .cmd w :: rest ∧ decode w = .illegal why ∧ t = s.advance.refuseWord)
    ∨ (∃ w i rest, s.port = .cmd w :: rest ∧ decode w = .ok i ∧ exec i s.advance = .next t) := by
  cases hp : s.port with
  | nil => simp [step, hp] at h; exact .inl ⟨rfl, h.symm⟩
  | cons e rest =>
    cases e with
    | reset => simp [step, fetch, hp] at h; exact .inr (.inl ⟨rest, rfl, h.symm⟩)
    | cmd w =>
      cases hd : decode w with
      | illegal why =>
        simp [step, fetch_malformed hp hd] at h
        exact .inr (.inr (.inl ⟨w, why, rest, rfl, hd, h.symm⟩))
      | ok i =>
        simp [step, fetch_operation hp hd] at h
        exact .inr (.inr (.inr ⟨w, i, rest, rfl, hd, h⟩))

end Sys2Proof.Machine
end

