-- ==== Sys2Proof/Laws/PerInstr.lean ====
section
/-! SUPPORT. The statement made once per operation: its encoding has the fixed bits of its opcode-table row and legal
colour fields (30_encoding.md R58 to R64). -/

namespace Sys2Proof.Laws.OpcodeRow

/-- The operation's row is a row of the table, and its word is one of that row's. -/
def Statement (i : Instr) : Prop := opcodeRow i ∈ opcodeTable ∧ (opcodeRow i).admits (encode i) = true

/-- The legal colour codes (R50). -/
theorem colorCode_le (c : Color) : colorCode c ≤ 4 := by cases c <;> decide

/-- A word whose fixed bits are the row's and whose colour fields are colour codes is the row's. -/
theorem admits_of {r : TableRow} {w : CmdWord} (hf : w &&& r.mask = r.value)
    (hc : ∀ lo ∈ r.colorFields, ∃ c : Color, w.extractLsb' lo 3 = colorCode c) : r.admits w = true := by
  simp only [TableRow.admits, Bool.and_eq_true, beq_iff_eq, List.all_eq_true, decide_eq_true_eq]
  refine ⟨hf, fun lo hlo => ?_⟩
  obtain ⟨c, h⟩ := hc lo hlo
  exact h ▸ colorCode_le c

theorem crc8 (word : Word) (index : Index) : Statement (.crc8 word index) := by
  refine ⟨by simp [opcodeRow, opcodeTable], admits_of ?_ ?_⟩
  · apply BitVec.eq_of_getLsbD_eq
    intro i hi
    rw [opcodeRow, encode, BitVec.getLsbD_and]
    repeat rw [BitVec.getLsbD_append]
    interval_cases i <;> simp
  · simp [opcodeRow]

theorem symf (prev curr : Color) : Statement (.symf prev curr) := by
  refine ⟨by simp [opcodeRow, opcodeTable], admits_of ?_ ?_⟩
  · apply BitVec.eq_of_getLsbD_eq
    intro i hi
    rw [opcodeRow, encode, BitVec.getLsbD_and]
    repeat rw [BitVec.getLsbD_append]
    interval_cases i <;> simp
  · intro lo hlo
    obtain rfl | rfl : lo = 3 ∨ lo = 0 := by simpa [opcodeRow] using hlo
    · refine ⟨prev, BitVec.eq_of_getLsbD_eq fun i hi => ?_⟩
      rw [encode, BitVec.getLsbD_extractLsb']
      repeat rw [BitVec.getLsbD_append]
      interval_cases i <;> simp
    · refine ⟨curr, BitVec.eq_of_getLsbD_eq fun i hi => ?_⟩
      rw [encode, BitVec.getLsbD_extractLsb']
      repeat rw [BitVec.getLsbD_append]
      interval_cases i <;> simp

theorem symi (prev : Color) (v : Byte) : Statement (.symi prev v) := by
  refine ⟨by simp [opcodeRow, opcodeTable], admits_of ?_ ?_⟩
  · apply BitVec.eq_of_getLsbD_eq
    intro i hi
    rw [opcodeRow, encode, BitVec.getLsbD_and]
    repeat rw [BitVec.getLsbD_append]
    interval_cases i <;> simp
  · intro lo hlo
    obtain rfl : lo = 8 := by simpa [opcodeRow] using hlo
    refine ⟨prev, BitVec.eq_of_getLsbD_eq fun i hi => ?_⟩
    rw [encode, BitVec.getLsbD_extractLsb']
    repeat rw [BitVec.getLsbD_append]
    interval_cases i <;> simp

theorem txbegin : Statement (.txbegin) := by
  refine ⟨by simp [opcodeRow, opcodeTable], admits_of ?_ ?_⟩
  · decide
  · simp [opcodeRow]

theorem encw (index : Index) (word : Word) : Statement (.encw index word) := by
  refine ⟨by simp [opcodeRow, opcodeTable], admits_of ?_ ?_⟩
  · apply BitVec.eq_of_getLsbD_eq
    intro i hi
    rw [opcodeRow, encode, BitVec.getLsbD_and]
    repeat rw [BitVec.getLsbD_append]
    interval_cases i <;> simp
  · simp [opcodeRow]

theorem feed (color : Color) (duration : BitVec 16) : Statement (.feed color duration) := by
  refine ⟨by simp [opcodeRow, opcodeTable], admits_of ?_ ?_⟩
  · apply BitVec.eq_of_getLsbD_eq
    intro i hi
    rw [opcodeRow, encode, BitVec.getLsbD_and]
    repeat rw [BitVec.getLsbD_append]
    interval_cases i <;> simp
  · intro lo hlo
    obtain rfl : lo = 16 := by simpa [opcodeRow] using hlo
    refine ⟨color, BitVec.eq_of_getLsbD_eq fun i hi => ?_⟩
    rw [encode, BitVec.getLsbD_extractLsb']
    repeat rw [BitVec.getLsbD_append]
    interval_cases i <;> simp

theorem rdstore (index : Index) : Statement (.rdstore index) := by
  refine ⟨by simp [opcodeRow, opcodeTable], admits_of ?_ ?_⟩
  · apply BitVec.eq_of_getLsbD_eq
    intro i hi
    rw [opcodeRow, encode, BitVec.getLsbD_and]
    repeat rw [BitVec.getLsbD_append]
    interval_cases i <;> simp
  · simp [opcodeRow]

end Sys2Proof.Laws.OpcodeRow
end

