-- ==== Sys2Proof/Machine/Assembler.lean ====
section
/-! DEFINITION. The assembler syntax of 30_encoding.md R67, notation of the spec's own for the host's programs. Text is
a list of characters. What R67 leaves open (spacing, hexadecimal letter case) is assumption 17. -/

namespace Sys2Proof.Machine

/-- One line of a program: an operation or one of the two pseudo-operations (R67). -/
inductive AsmLine where
  | op (i : Instr)
  | send (bytes : List Byte)
  | replay
deriving DecidableEq, Repr

/-- `;` starts a comment (R67). -/
def stripComment (line : List Char) : List Char := line.takeWhile (fun c => c ≠ ';')

/-- The words and commas of a line; blanks only separate. `cur` is the word being read, reversed. -/
def tokensFrom (cur : List Char) : List Char → List (List Char)
  | [] => if cur = [] then [] else [cur.reverse]
  | c :: cs =>
    if c = ' ' ∨ c = '\t' then (if cur = [] then [] else [cur.reverse]) ++ tokensFrom [] cs
    else if c = ',' then (if cur = [] then [] else [cur.reverse]) ++ [','] :: tokensFrom [] cs
    else tokensFrom (c :: cur) cs

/-- The value of one digit in base 10 or 16. -/
def digitOf (base : Nat) (c : Char) : Option Nat :=
  let n := c.toNat
  if 48 ≤ n ∧ n ≤ 57 then some (n - 48)
  else if base = 16 ∧ 65 ≤ n ∧ n ≤ 70 then some (n - 55)
  else if base = 16 ∧ 97 ≤ n ∧ n ≤ 102 then some (n - 87)
  else none

/-- The value of a string of digits, the digits read so far being worth `acc`. -/
def digitsValue (base acc : Nat) : List Char → Option Nat
  | [] => some acc
  | c :: cs =>
    match digitOf base c with
    | some d => digitsValue base (base * acc + d) cs
    | none => none

/-- A number: decimal, or hexadecimal with `0x` (R67). -/
def asmNumber : List Char → Option Nat
  | [] => none
  | '0' :: 'x' :: [] => none
  | '0' :: 'x' :: d :: ds => digitsValue 16 0 (d :: ds)
  | d :: ds => digitsValue 10 0 (d :: ds)

/-- A number that fits `n` bits: each operand accepts exactly its field's values (R65, R68). -/
def asmBits (n : Nat) (t : List Char) : Option (BitVec n) :=
  match asmNumber t with
  | some v => if v < 2 ^ n then some (BitVec.ofNat n v) else none
  | none => none

/-- A colour operand (R67). -/
def asmColor (t : List Char) : Option Color :=
  if t = ['O', 'f', 'f'] then some .off
  else if t = ['W', 'h', 'i', 't', 'e'] then some .white
  else if t = ['R', 'e', 'd'] then some .red
  else if t = ['G', 'r', 'e', 'e', 'n'] then some .green
  else if t = ['B', 'l', 'u', 'e'] then some .blue
  else none

/-- The bytes of SEND, separated by blanks (R67). -/
def asmBytes : List (List Char) → Option (List Byte)
  | [] => some []
  | t :: ts =>
    match asmBits 8 t, asmBytes ts with
    | some b, some bs => some (b :: bs)
    | _, _ => none

/-- The two operands of an operation, read by `f` and `g` and put together by `k`. -/
def asmPair {α β : Type} (f : List Char → Option α) (g : List Char → Option β) (k : α → β → Instr)
    (operands : List (List Char)) : Option AsmLine :=
  match operands with
  | [x, [','], y] =>
    match f x, g y with
    | some a, some b => some (.op (k a b))
    | _, _ => none
  | _ => none

/-- One operation: mnemonic and operands in the order R67 gives. -/
def asmOperation (mnemonic : List Char) (operands : List (List Char)) : Option AsmLine :=
  if mnemonic = ['C', 'R', 'C', '8'] then asmPair (asmBits 16) (asmBits 8) .crc8 operands
  else if mnemonic = ['S', 'Y', 'M', 'F'] then asmPair asmColor asmColor .symf operands
  else if mnemonic = ['S', 'Y', 'M', 'I'] then asmPair asmColor (asmBits 8) .symi operands
  else if mnemonic = ['T', 'X', 'B', 'E', 'G', 'I', 'N'] then
    if operands = [] then some (.op .txbegin) else none
  else if mnemonic = ['E', 'N', 'C', 'W'] then asmPair (asmBits 8) (asmBits 16) .encw operands
  else if mnemonic = ['F', 'E', 'E', 'D'] then asmPair asmColor (asmBits 16) .feed operands
  else if mnemonic = ['R', 'D', 'S', 'T', 'O', 'R', 'E'] then
    match operands with
    | [x] =>
      match asmBits 8 x with
      | some index => some (.op (.rdstore index))
      | none => none
    | _ => none
  else if mnemonic = ['S', 'E', 'N', 'D'] then
    match asmBytes operands with
    | some bytes => some (.send bytes)
    | none => none
  else if mnemonic = ['R', 'E', 'P', 'L', 'A', 'Y'] then
    if operands = [] then some .replay else none
  else none

/-- What one line asks for: nothing for a blank or comment line, `none` for text that is no line of R67. -/
def assembleLine (line : List Char) : Option (List AsmLine) :=
  match tokensFrom [] (stripComment line) with
  | [] => some []
  | mnemonic :: operands =>
    match asmOperation mnemonic operands with
    | some l => some [l]
    | none => none

/-- The inputs a line puts on the port: REPLAY is one FEED per command emitted since the latest TXBEGIN (R67). -/
def Session.expand (h : Session) : AsmLine → Option (List PortEvent)
  | .op i => some (commandWords [i])
  | .send bytes =>
    match sendInstrs h.block.cfg bytes with
    | some is => some (commandWords is)
    | none => none
  | .replay => some (commandWords (replayInstrs h.block.cfg h.commands))

/-- The host runs one line; a line without an expansion issues nothing. -/
def Session.runLine (h : Session) (l : AsmLine) : Session :=
  match h.expand l with
  | some es => h.issueAll es
  | none => h

end Sys2Proof.Machine
end

