-- ==== Sys2Proof/Tests/Slice0.lean ====
section
/-! SUPPORT. Small tests: the ill-formed terms the checks refuse, one word per operation written out from its layout,
the spec's own vectors (95_test_vectors.md) one step each, and for every statement with hypotheses a witness that
meets them. -/

namespace Sys2Proof.Tests

open Sys2Proof Sys2Proof.Machine

/-! Helpers -/

/-- A receiver with this window and previous colour, everything else as reset. -/
def rx (w : Window) (prev : Color) : State := { State.reset with rxWindow := w, rxPrev := prev }

/-- A transmitter with this previous colour, everything else as reset. -/
def tx (prev : Color) : State := { State.reset with txPrev := prev }

/-- The next state of an outcome, or the reset state where there is none. -/
def after (o : Host.Outcome State Fault Refusal) : State :=
  match o with
  | .next t => t
  | .fault _ => State.reset
  | .refused _ => State.reset

/-- The value of the last response. -/
def lastRsp (s : State) : Option (BitVec 32) := s.responses.getLast?.map Response.rsp

/-! Ill-formed terms, one for each check (R65, R5) -/

theorem test_wf_refuses_op0 : CmdWord.wellFormed 0x00000000 = false := by decide
theorem test_wf_refuses_op8 : CmdWord.wellFormed 0x80000000 = false := by decide
theorem test_wf_refuses_all_ones : CmdWord.wellFormed 0xFFFFFFFF = false := by decide
theorem test_wf_refuses_reserved_bits : ([0x11123400, 0x20000040, 0x30000803, 0x40000001, 0x51000000, 0x60080000,
    0x70000100] : List CmdWord).all (fun w => CmdWord.wellFormed w == false) = true := by decide
theorem test_wf_refuses_color_codes : ([0x20000025, 0x2000002C, 0x300005FF, 0x6005007D] : List CmdWord).all
    (fun w => CmdWord.wellFormed w == false) = true := by decide
theorem test_wf_admits_a_word_of_each_row : ([0x10123400, 0x20000013, 0x30000403, 0x40000000, 0x50001234, 0x6004007D,
    0x70000001] : List CmdWord).all (fun w => CmdWord.wellFormed w) = true := by decide
theorem test_config_refuses_seed_zero : Config.wellFormed { resetConfig with windowSeed := 0 } = false := by decide
theorem test_config_refuses_capacity_zero : Config.wellFormed { resetConfig with txCapacity := 0 } = false := by decide
theorem test_config_refuses_capacity_257 : Config.wellFormed { resetConfig with txCapacity := 257 } = false := by decide
theorem test_config_refuses_duration_width_15 : Config.wellFormed { resetConfig with durW := 15 } = false := by decide
theorem test_config_admits_reset : Config.wellFormed resetConfig = true := by decide
theorem test_store_wf_refuses_index_256 : Memory.wf [(256, 0x1234)] = false := by decide
theorem test_store_wf_refuses_falling_indexes : Memory.wf [(1, 0x1234), (0, 0x5678)] = false := by decide

/-! One word per operation, written out field by field from its layout (R58 to R64, V-DEC) -/

theorem test_decode_crc8 : decode 0b00010000000100100011010000000000 = .ok (.crc8 0x1234 0x00) := by decide
theorem test_decode_symf : decode 0b00100000000000000000000000010011 = .ok (.symf .red .green) := by decide
theorem test_decode_symi : decode 0b00110000000000000000010000000011 = .ok (.symi .blue 3) := by decide
theorem test_decode_txbegin : decode 0b01000000000000000000000000000000 = .ok .txbegin := by decide
theorem test_decode_encw : decode 0b01010000000000000001001000110100 = .ok (.encw 0x00 0x1234) := by decide
theorem test_decode_feed : decode 0b01100000000001000000000001111101 = .ok (.feed .blue 125) := by decide
theorem test_decode_rdstore : decode 0b01110000000000000000000000000001 = .ok (.rdstore 0x01) := by decide
theorem test_decode_clamped_v_is_legal : decode 0x300004FF = .ok (.symi .blue 255) := by decide
theorem test_decode_reserved_op : decode 0x80000000 = .illegal .reservedOp := by decide
theorem test_decode_reserved_bit : decode 0x40000001 = .illegal .reservedBit := by decide
theorem test_decode_color_code : decode 0x2000002C = .illegal .colorField := by decide
theorem test_encode_feed : encode (.feed .off 65535) = 0x6000FFFF := by decide
theorem test_table_word : decodeTableWord 32 0x5000BEEF = some (.encw 0x00 0xBEEF) := by decide

/-! One step each, expected values from 95_test_vectors.md -/

/-- V-CRC, `CRC8 0x1234, 0x00`. -/
theorem test_crc8_scenario : lastRsp (after (exec (.crc8 0x1234 0x00) State.reset)) = some 0x00000037 := by
  decide +kernel

/-- V-CRC, word 0x3412: the byte order matters. -/
theorem test_crc8_byte_order : lastRsp (after (exec (.crc8 0x3412 0x00) State.reset)) = some 0x000000D9 := by
  decide +kernel

/-- R75: the printed table, entry by entry. -/
theorem test_crc8_table : (List.range 256).map (fun x => crc8Byte 0 (BitVec.ofNat 8 x)) = crcTable := by
  decide +kernel

/-- V-SYMF, `SYMF Green, Red` answers 2. -/
theorem test_symf_green_red : lastRsp (after (exec (.symf .green .red) State.reset)) = some 2 := by decide

/-- V-SYMF, `SYMF Off, White` answers 0, the neutral partner of Off. -/
theorem test_symf_off_white : lastRsp (after (exec (.symf .off .white) State.reset)) = some 0 := by decide

/-- V-SYMI, `SYMI Blue, 255` is clamped and answers Green (3). -/
theorem test_symi_clamp : lastRsp (after (exec (.symi .blue 255) State.reset)) = some 3 := by decide

/-- V-SYMI, `SYMI Green, 2` answers Red (2). -/
theorem test_symi_green_two : lastRsp (after (exec (.symi .green 2) State.reset)) = some 2 := by decide

/-- R90: with `tx_prev = Blue`, TXBEGIN leaves Off and emits nothing. -/
theorem test_txbegin_from_blue : (after (exec .txbegin (tx .blue))).txPrev = .off
    ∧ (after (exec .txbegin (tx .blue))).txOut = [] := by decide

/-- V-ENCW, second packet of a stream: from Blue, index 01, word 5678. -/
theorem test_encw_from_blue : (after (exec (.encw 0x01 0x5678) (tx .blue))).txOut.map Command.color =
    [.off, .white, .off, .red, .white, .blue, .red, .off, .red, .white, .red, .green, .white, .off, .white, .blue] := by
  decide +kernel

/-- V-ENCW, index FF, word FFFF from Off: `tx_prev` ends Green, every duration is 125. -/
theorem test_encw_all_ones : (after (exec (.encw 0xFF 0xFFFF) (tx .off))).txPrev = .green
    ∧ (after (exec (.encw 0xFF 0xFFFF) (tx .off))).txOut.map Command.duration = List.replicate 16 125 := by
  decide +kernel

/-- V-FEED: one below `MIN_DURATION` is ignored, `MIN_DURATION` itself is accepted. -/
theorem test_feed_boundary : (after (exec (.feed .green 59) (rx 0x12345678 .red))).rxWindow = 0x12345678
    ∧ (after (exec (.feed .green 60) (rx 0x12345678 .red))).rxWindow = 0x48D159E2 := by decide +kernel

/-- V-FEED: the last symbol of the scenario delivers its packet, in the stream, the store and the response. -/
theorem test_feed_delivers : (after (exec (.feed .blue 125) (rx 0xC00D048D .white))).pktOut = [⟨0x00, 0x1234⟩]
    ∧ (after (exec (.feed .blue 125) (rx 0xC00D048D .white))).store = [(0, 0x1234)]
    ∧ lastRsp (after (exec (.feed .blue 125) (rx 0xC00D048D .white))) = some 0x01001234 := by decide +kernel

/-- V-RDSTORE: after the scenario entry 0 reads 0x1234. -/
theorem test_rdstore_written :
    lastRsp (after (exec (.rdstore 0x00) { State.reset with store := [(0, 0x1234)] })) = some 0x00001234 := by decide

/-- V-RDSTORE: an entry never written reads as its unconstrained power-on value. -/
theorem test_rdstore_never_written :
    lastRsp (after (exec (.rdstore 0x01) State.reset)) = some ((resetConfig.storeInit 0x01).zeroExtend 32) := rfl

/-- R124: a refused word on the port answers ERR with `rsp = 0` and changes nothing else. -/
theorem test_refused_word : after (step (State.reset.withFetchWord 32 0x6005007D)) =
    { State.reset with responses := [⟨.err, 0⟩] } := by decide

/-- R140: RESET re-seeds the window and leaves the store. -/
theorem test_reset_input :
    (after (step { rx 0x12345678 .red with store := [(7, 0xBEEF)], port := [.reset] })) =
      { State.reset with store := [(7, 0xBEEF)] } := by decide

/-- The fetch places the word where the very next step takes it. -/
theorem test_with_fetch_word : step (State.reset.withFetchWord 32 0x50001234) = exec (.encw 0 0x1234) State.reset := rfl

/-- R53's example: the 16 symbols of the frame 0x00341237. -/
theorem test_frame_symbols : frameSymbols (packetFrame 0x00 0x1234) = [0, 0, 0, 0, 0, 3, 1, 0, 0, 1, 0, 2, 0, 3, 1, 3] := by
  decide +kernel

/-! The host side (V-HOST, R67) -/

theorem test_pack_hi : messageWords resetConfig [0x48, 0x69, 0x21] = [0x6948, 0x0021] := by decide
theorem test_send_truncates : sendInstrs { resetConfig with txCapacity := 1 } [0x34, 0x12, 0x78, 0x56] =
    some [.txbegin, .encw 0x00 0x1234] := by decide
theorem test_assemble_feed : assembleLine ['F', 'E', 'E', 'D', ' ', 'B', 'l', 'u', 'e', ',', ' ', '1', '2', '5', ' ', ';',
    'x'] = some [.op (.feed .blue 125)] := by decide +kernel
theorem test_assemble_encw : assembleLine ['E', 'N', 'C', 'W', ' ', '0', 'x', 'F', 'F', ',', '0', 'x', '1', '2', '3', '4']
    = some [.op (.encw 0xFF 0x1234)] := by decide +kernel
theorem test_assemble_send : assembleLine ['S', 'E', 'N', 'D', ' ', '5', '2', ' ', '0', 'x', '1', '2'] =
    some [.send [0x34, 0x12]] := by decide +kernel
theorem test_assemble_refuses_lower_case : assembleLine ['c', 'r', 'c', '8', ' ', '1', ',', '1'] = none := by
  decide +kernel

/-! Witnesses: for each statement with hypotheses, a state and operands that meet all of them together -/

theorem test_witness_decode_of_encode : (Instr.feed .blue 0xFFFF).wellFormed = true := by decide

theorem test_witness_encode_of_decode : decode 0x70000001 = .ok (.rdstore 0x01) := by decide

/-- A word for each clause of the refusal grounds, at the edge of its range. -/
theorem test_witness_refusal_grounds : ∀ w ∈ ([0x00000000, 0x80000000, 0x11123400, 0x20000040, 0x30000803, 0x40000001,
    0x51000000, 0x60080000, 0x70000100, 0x20000028, 0x20000005, 0x30000503, 0x6005007D] : List CmdWord),
    RefusalGround w := by
  simp [RefusalGround]

theorem test_witness_step_runs : ({ State.reset with port := [.cmd 0x10123400, .reset] } : State).port =
      .cmd 0x10123400 :: [.reset]
    ∧ decode 0x10123400 = .ok (.crc8 0x1234 0x00) ∧ (Instr.crc8 0x1234 0x00).wellFormed = true := by decide

theorem test_witness_refused_word : ({ State.reset with port := [.cmd 0x40000001] } : State).port =
    .cmd 0x40000001 :: [] ∧ RefusalGround 0x40000001 := by
  simp [RefusalGround]

theorem test_witness_reset_input : ({ State.reset with port := [.reset] } : State).port = .reset :: [] := by decide

theorem test_witness_idle : State.reset.port = [] := by decide

theorem test_witness_never_written : Memory.lookup State.reset.store (255 : Index).toNat = none := by decide

/-- The three cases of the store's frame: an ignored event, an invalid window, another index than the frame's. -/
theorem test_witness_store_frame :
    eventIgnored resetConfig .red .green 59 = true
    ∧ frameValid (nextWindow (rx 0xC00D048D .white) .green) = false
    ∧ (1 : Index) ≠ windowIndex (nextWindow (rx 0xC00D048D .white) .blue)
    ∧ exec (.feed .blue 125) (rx 0xC00D048D .white) = .next (feedEvent .blue 125 (rx 0xC00D048D .white)) := by
  refine ⟨by decide, by decide +kernel, by decide +kernel, rfl⟩

/-- Two different states each class of the reads statement cannot tell apart. -/
theorem test_witness_reads :
    sideOf (.crc8 1 1) = .pure ∧ sideOf .txbegin = .transmit
    ∧ (rx 5 .red).txPrev = State.reset.txPrev ∧ (rx 5 .red).cfg.duration = State.reset.cfg.duration
    ∧ (tx .blue).rxPrev = State.reset.rxPrev ∧ (tx .blue).rxWindow = State.reset.rxWindow
    ∧ (tx .blue).cfg.minDuration = State.reset.cfg.minDuration ∧ tx .blue ≠ State.reset
    ∧ eventIgnored (tx .blue).cfg (tx .blue).rxPrev .green (59 : BitVec 16).toNat = true
    ∧ (tx .blue).readStore 7 = State.reset.readStore 7
    ∧ exec (.rdstore 7) State.reset = .next (State.reset.respond .ok (rspWord (State.reset.readStore 7))) := by
  refine ⟨rfl, rfl, rfl, rfl, rfl, rfl, rfl, by decide, by decide, rfl, rfl⟩

theorem test_witness_sides : sideOf (.encw 0 0) ≠ sideOf (.feed .red 60) ∧ sideOf (.feed .red 60) ≠ sideOf (.crc8 0 0)
    ∧ sideOf .txbegin ≠ sideOf (.symf .off .red) := by decide

theorem test_witness_streams_grow : step { State.reset with port := [.reset] } = .next State.reset := rfl

/-- A state with a packet in the stream and the store, and a word on the port. -/
def busy : State :=
  { State.reset with store := [(7, 0xBEEF)], pktOut := [⟨7, 0xBEEF⟩], port := [.cmd 0x40000000] }

theorem test_witness_invariant : busy.Inv ∧ step busy = exec .txbegin { busy with port := [] } := by
  refine ⟨⟨by decide, by decide, fun index => ?_, by simp [busy, State.reset], by simp [busy, State.reset],
    by simp [busy, State.reset]⟩, rfl⟩
  have h : ∀ i : Index, Memory.lookup busy.store i.toNat = latestWord busy.pktOut i := by decide +kernel
  exact h index

theorem test_witness_session : Session.start.block.port = [] := by decide

theorem test_witness_bit_flips : (0 < 16) ∧ (15 < 16) ∧ (7 < 8) := by decide

theorem test_witness_clamp : 3 ≤ (3 : Nat) ∧ 3 ≤ (255 : Byte).toNat := by decide

/-- Both clauses: too short, and the colour already held. -/
theorem test_witness_ignored : ∀ e ∈ ([(.green, 59), (.red, 1000)] : List (Color × BitVec 16)),
    e.2.toNat < (rx 0x12345678 .red).cfg.minDuration ∨ e.1 = (rx 0x12345678 .red).rxPrev := by decide

theorem test_witness_clean_frame : (List.replicate 16 (60 : BitVec 16)).length = 16
    ∧ ∀ d ∈ List.replicate 16 (60 : BitVec 16), State.reset.cfg.minDuration ≤ d.toNat := by
  refine ⟨List.length_replicate, fun d hd => ?_⟩
  rw [List.eq_of_mem_replicate hd]
  decide

/-- Alternating White and Off, long enough. -/
def alternating (n : Nat) : List (Color × BitVec 16) :=
  (List.range n).map (fun k => (if k % 2 = 0 then .white else .off, 60))

theorem test_witness_accepted_15_and_16 :
    (alternating 15).length = 15 ∧ AllAccepted State.reset.cfg State.reset.rxPrev (alternating 15)
    ∧ (alternating 16).length = 16 ∧ AllAccepted State.reset.cfg State.reset.rxPrev (alternating 16) := by
  unfold AllAccepted
  decide +kernel

/-- R145's own example: index 0, word 0x1234, then Off. -/
theorem test_witness_shifted : frameValid (rx 0x00341237 .blue).rxWindow = true
    ∧ (rx 0x00341237 .blue).rxWindow.extractLsb' 30 2 = 0 ∧ (rx 0x00341237 .blue).rxWindow.extractLsb' 22 2 = 0
    ∧ (rx 0x00341237 .blue).rxWindow.extractLsb' 6 2 = 0 ∧ (rx 0x00341237 .blue).cfg.minDuration ≤ (60 : BitVec 16).toNat
    ∧ Color.off ≠ (rx 0x00341237 .blue).rxPrev ∧ symbolForTransition (rx 0x00341237 .blue).rxPrev .off = 0 := by
  decide +kernel

theorem test_witness_zero_window : (rx 0 .off).rxWindow = 0
    ∧ AllAccepted (rx 0 .off).cfg (rx 0 .off).rxPrev (alternating 3)
    ∧ ∀ k, k < (alternating 3).length → symbolForTransition (((rx 0 .off).rxPrev :: (alternating 3).map Prod.fst).getD k .off)
      (((alternating 3).map Prod.fst).getD k .off) = 0 := by
  unfold AllAccepted
  decide +kernel

theorem test_witness_early_match : 4 ≤ 4 ∧ 15 ≤ 15 ∧ State.reset.cfg.minDuration < 2 ^ 16 := by decide

theorem test_witness_seed : (0xFFFFFFFF : Window) ≠ 0 := by decide

theorem test_witness_replay : resetConfig.wellFormed = true
    ∧ ∀ c ∈ ([⟨.white, 125⟩, ⟨.off, 65535⟩] : List Command), c.duration < 2 ^ resetConfig.durW := by decide

theorem test_witness_table_row : decode 0x6004007D = .ok (.feed .blue 125)
    ∧ opcodeTable[5]? = some (opcodeRow (.feed .blue 125)) ∧ (opcodeRow (.feed .blue 125)).admits 0x6004007D = true := by
  decide

/-- A message of one word between two reset blocks, each command held for exactly its duration. -/
theorem test_witness_link : ([0x1234] : List Word).length ≤ 256 ∧ State.reset.rxPrev = .off
    ∧ State.reset.cfg.minDuration ≤ State.reset.cfg.duration ∧ ([0x1234] : List Word)[0]? = some 0x1234
    ∧ DriverConforms ((serialize .off 0 0x1234).map (commandOf State.reset.cfg))
      (((serialize .off 0 0x1234).map (fun c => (c, (125 : BitVec 16)))).map (fun e => (e.1, e.2.toNat))) := by
  unfold DriverConforms
  decide +kernel

/-- A receiver left on Blue, as after the spec's program P3, and the second word of a message. -/
theorem test_witness_disagreement : ([0x1234, 0x5678] : List Word)[1]? = some 0x5678 ∧ (rx 0x00341237 .blue).rxPrev ≠ .off
    ∧ (rx 0x00341237 .blue).cfg.minDuration ≤ State.reset.cfg.duration
    ∧ DriverConforms (((serialize .off 0 0x1234) ++ serialize .blue 1 0x5678).map (commandOf State.reset.cfg))
      (((serialize .off 0 0x1234 ++ serialize .blue 1 0x5678).map (fun c => (c, (125 : BitVec 16)))).map
        (fun e => (e.1, e.2.toNat))) := by
  unfold DriverConforms
  decide +kernel

theorem test_witness_send : 1 ≤ ({ resetConfig with txCapacity := 1 } : Config).txCapacity
    ∧ ({ resetConfig with txCapacity := 256 } : Config).txCapacity ≤ 256 := by decide

end Sys2Proof.Tests
end

/-! Rules of the state's operations that the statements of 10_state.md need: reading the store after its one write,
the latest packet of a stream, and what each named update does to the machine's invariant. -/

namespace Sys2Proof.Machine

/-! ### The store and the packet stream -/

theorem Memory.lookup_write (m : Memory) (a b : Index) (w : Word) :
    Memory.lookup (Memory.write m a w) b.toNat = if b = a then some w else Memory.lookup m b.toNat := by
  simp only [Memory.write, Memory.lookup_insert, BitVec.toNat_inj]

@[simp] theorem State.writeStore_readStore_same (s : State) (a : Index) (w : Word) :
    (s.writeStore a w).readStore a = w := by
  simp [State.readStore, Memory.read, Memory.lookup_write]

theorem State.writeStore_readStore_other (s : State) {a b : Index} (w : Word) (h : b ≠ a) :
    (s.writeStore a w).readStore b = s.readStore b := by
  simp [State.readStore, Memory.read, Memory.lookup_write, h]

theorem latestWord_append (ps : List Packet) (p : Packet) (index : Index) :
    latestWord (ps ++ [p]) index = if index = p.index then some p.word else latestWord ps index := by
  by_cases h : index = p.index
  · simp [latestWord, h]
  · simp [latestWord, h, Ne.symm h]

/-! ### One event, branch by branch (R100 to R106) -/

theorem feedEvent_of_ignored {color : Color} {d : Nat} {s : State}
    (h : eventIgnored s.cfg s.rxPrev color d = true) : feedEvent color d s = s.respond .ok rspNone := by
  simp [feedEvent, h]

theorem feedEvent_of_invalid {color : Color} {d : Nat} {s : State}
    (h : eventIgnored s.cfg s.rxPrev color d = false) (hv : frameValid (nextWindow s color) = false) :
    feedEvent color d s = ((s.setRxWindow (nextWindow s color)).respond .ok rspNone).setRxPrev color := by
  simp [feedEvent, h, acceptEvent, deliver_invalid _ hv]

theorem feedEvent_of_valid {color : Color} {d : Nat} {s : State}
    (h : eventIgnored s.cfg s.rxPrev color d = false) (hv : frameValid (nextWindow s color) = true) :
    feedEvent color d s =
      ((((s.setRxWindow (nextWindow s color)).writeStore (windowIndex (nextWindow s color))
        (windowWord (nextWindow s color))).emitPacket (windowPacket (nextWindow s color))).respond .ok
        (rspPacket (windowPacket (nextWindow s color)))).setRxPrev color := by
  simp [feedEvent, h, acceptEvent, deliver_valid _ hv]

/-- Every event gives one response, with status OK (R57, R63). -/
theorem feedEvent_responses (color : Color) (d : Nat) (s : State) :
    ∃ r, (feedEvent color d s).responses = s.responses ++ [r] ∧ r.status = .ok := by
  rcases feedEvent_cases color d s with ⟨_, e⟩ | ⟨_, _, _, e⟩ | ⟨_, _, _, e⟩ <;> simp [e]

/-- An event never alters a packet already emitted (R21). -/
theorem pktOut_isPrefix_feedEvent (color : Color) (d : Nat) (s : State) : s.pktOut <+: (feedEvent color d s).pktOut := by
  rcases feedEvent_cases color d s with ⟨_, e⟩ | ⟨_, _, _, e⟩ | ⟨_, _, _, e⟩ <;> simp [e]

/-! ### The serializer emits whole frames (R92) -/

@[simp] theorem colorChain_length (p : Color) (vs : List Symbol) : (colorChain p vs).length = vs.length := by
  induction vs generalizing p with
  | nil => rfl
  | cons v vs ih => simp [colorChain, ih]

@[simp] theorem serialize_length (p : Color) (index : Index) (word : Word) : (serialize p index word).length = 16 := by
  simp [serialize, frameSymbols]

/-! ### The invariant, update by update: it reads the store, the three streams and the constants alone -/

theorem State.Inv.setTxPrev {s : State} (h : s.Inv) (c : Color) : (s.setTxPrev c).Inv := { h with }

theorem State.Inv.setRxWindow {s : State} (h : s.Inv) (w : Window) : (s.setRxWindow w).Inv := { h with }

theorem State.Inv.setRxPrev {s : State} (h : s.Inv) (c : Color) : (s.setRxPrev c).Inv := { h with }

theorem State.Inv.advance {s : State} (h : s.Inv) : s.advance.Inv := { h with }

theorem State.Inv.resetInput {s : State} (h : s.Inv) : s.resetInput.Inv := { h with }

theorem State.Inv.respond {s : State} (h : s.Inv) {st : Status} {r : BitVec 32} (hr : st = .err → r = 0) :
    (s.respond st r).Inv :=
  { h with
    err_zero := by
      intro x hx
      rcases List.mem_append.mp hx with hx | hx
      · exact h.err_zero x hx
      · obtain rfl := List.mem_singleton.mp hx
        exact hr }

theorem State.Inv.respond_ok {s : State} (h : s.Inv) (r : BitVec 32) : (s.respond .ok r).Inv := h.respond nofun

theorem State.Inv.refuseWord {s : State} (h : s.Inv) : s.refuseWord.Inv := h.respond fun _ => rfl

/-- Whole frames of the constant duration keep the command stream's two clauses (R93, R94). -/
theorem State.Inv.emitCommands {s : State} (h : s.Inv) {cs : List Command}
    (hd : ∀ c ∈ cs, c.duration = s.cfg.duration) (hl : cs.length % 16 = 0) : (s.emitCommands cs).Inv :=
  { h with
    tx_duration := by
      intro c hc
      exact (List.mem_append.mp hc).elim (h.tx_duration c) (hd c)
    tx_frames := by
      have := h.tx_frames
      rw [State.emitCommands_txOut, List.length_append]
      omega }

/-- The store and the packet stream move together: the entry written is that of the packet emitted (R105). -/
theorem State.Inv.store_and_emit {s : State} (h : s.Inv) (p : Packet) :
    ((s.writeStore p.index p.word).emitPacket p).Inv :=
  { h with
    store_wf := Memory.write_wf _ _ _ h.store_wf
    store_latest := by
      intro index
      simp only [State.emitPacket_store, State.writeStore_store, State.emitPacket_pktOut, State.writeStore_pktOut,
        Memory.lookup_write, latestWord_append, h.store_latest] }

theorem State.Inv.feedEvent {s : State} (h : s.Inv) (color : Color) (d : Nat) : (feedEvent color d s).Inv := by
  rcases feedEvent_cases color d s with ⟨_, e⟩ | ⟨_, _, _, e⟩ | ⟨_, _, _, e⟩ <;> rw [e]
  · exact h.respond_ok _
  · exact ((h.setRxWindow _).respond_ok _).setRxPrev _
  · exact (((h.setRxWindow _).store_and_emit (windowPacket (nextWindow s color))).respond_ok _).setRxPrev _

/-- The 16 commands of one ENCW (R91, R94). -/
theorem State.Inv.emitFrame {s : State} (h : s.Inv) (p : Color) (index : Index) (word : Word) :
    (s.emitCommands ((serialize p index word).map (commandOf s.cfg))).Inv := by
  refine h.emitCommands (fun c hc => ?_) (by simp)
  obtain ⟨color, _, rfl⟩ := List.mem_map.mp hc
  rfl

theorem exec_keeps_inv {i : Instr} {s t : State} (h : s.Inv) (he : exec i s = .next t) : t.Inv := by
  cases i with
  | crc8 | symf | symi | rdstore => cases he; exact h.respond_ok _
  | txbegin => cases he; exact (h.setTxPrev _).respond_ok _
  | encw index word => cases he; exact ((h.emitFrame _ _ _).setTxPrev _).respond_ok _
  | feed color d => cases he; exact h.feedEvent _ _

/-- Settles O26: each input the step can take is a chain of updates that keep the invariant. -/
theorem everyStepKeepsTheInvariant : Obligations.EveryStepKeepsTheInvariant := by
  intro s t h hst
  rcases step_cases hst with ⟨_, rfl⟩ | ⟨_, _, rfl⟩ | ⟨_, _, _, _, _, rfl⟩ | ⟨_, i, _, _, _, he⟩
  · exact h
  · exact h.advance.resetInput
  · exact h.advance.refuseWord
  · exact exec_keeps_inv h.advance he

/-! ### The writes column of R23 -/

/-- Settles O20, operation by operation through its named updates. -/
theorem operationsWriteOnlyTheirRow : Obligations.OperationsWriteOnlyTheirRow := by
  intro i s
  cases i with
  | crc8 | symf | symi | txbegin | encw | rdstore => exact ⟨_, rfl, by simp⟩
  | feed color d => exact ⟨_, exec_feed color d s, by simp [feedEvent_responses]⟩

/-! ### The store's frame -/

theorem feedEvent_readStore_of_ignored {color : Color} {d : Nat} {s : State}
    (h : eventIgnored s.cfg s.rxPrev color d = true) (a : Index) :
    (feedEvent color d s).readStore a = s.readStore a := by
  simp [feedEvent_of_ignored h]

theorem feedEvent_readStore_of_invalid {color : Color} {d : Nat} {s : State}
    (h : frameValid (nextWindow s color) = false) (a : Index) :
    (feedEvent color d s).readStore a = s.readStore a := by
  rcases feedEvent_cases color d s with ⟨_, e⟩ | ⟨_, _, _, e⟩ | ⟨_, _, hv, _⟩
  · simp [e]
  · simp [e]
  · exact absurd (h.symm.trans hv) nofun

theorem feedEvent_readStore_of_other_index {color : Color} {d : Nat} {s : State} {a : Index}
    (h : a ≠ windowIndex (nextWindow s color)) : (feedEvent color d s).readStore a = s.readStore a := by
  rcases feedEvent_cases color d s with ⟨_, e⟩ | ⟨_, _, _, e⟩ | ⟨_, _, _, e⟩
  · simp [e]
  · simp [e]
  · simp [e, State.writeStore_readStore_other _ _ h]

/-- No operation but FEED touches the store or the constants, so every entry reads as before. -/
theorem exec_readStore {i : Instr} {s t : State} (hi : ∀ c d, i ≠ .feed c d) (he : exec i s = .next t) (a : Index) :
    t.readStore a = s.readStore a := by
  obtain ⟨u, hu, hrx, _, _, _, _, hcfg⟩ := operationsWriteOnlyTheirRow i s
  obtain ⟨_, _, hstore, _⟩ := hrx hi
  cases hu.symm.trans he
  simp [State.readStore, hstore, hcfg]

/-- Settles O21: the three cases of one event, and the writes column for the other operations. -/
theorem storeChangesOnlyAtTheFramesIndex : Obligations.StoreChangesOnlyAtTheFramesIndex := by
  refine ⟨fun color d s t he => ?_, fun i s t hi he => exec_readStore hi he⟩
  cases he
  refine ⟨fun h a => ?_, fun a => feedEvent_readStore_of_other_index⟩
  exact h.elim (feedEvent_readStore_of_ignored · a) (feedEvent_readStore_of_invalid · a)

/-! ### The reads column of R23 -/

/-- The ignore test reads `rx_prev` and `MIN_DURATION` alone (R101). -/
theorem eventIgnored_agrees {s t : State} (color : Color) (d : Nat) (hp : s.rxPrev = t.rxPrev)
    (hm : s.cfg.minDuration = t.cfg.minDuration) :
    eventIgnored t.cfg t.rxPrev color d = eventIgnored s.cfg s.rxPrev color d := by
  simp [eventIgnored, hp, hm]

/-- What FEED reads of the receiver decides what it writes: two receivers that agree on `rx_prev`, `rx_window` and
`MIN_DURATION` take the same branch with the same new window (R23). -/
theorem feedEvent_agrees {s t : State} (color : Color) (d : Nat) (hp : s.rxPrev = t.rxPrev)
    (hw : s.rxWindow = t.rxWindow) (hm : s.cfg.minDuration = t.cfg.minDuration) :
    (feedEvent color d s).rxWindow = (feedEvent color d t).rxWindow
    ∧ (feedEvent color d s).rxPrev = (feedEvent color d t).rxPrev
    ∧ (∃ ps r, (feedEvent color d s).pktOut = s.pktOut ++ ps ∧ (feedEvent color d t).pktOut = t.pktOut ++ ps
      ∧ (feedEvent color d s).responses = s.responses ++ [r] ∧ (feedEvent color d t).responses = t.responses ++ [r])
    ∧ ∀ a : Index, ((feedEvent color d s).readStore a = s.readStore a
        ∧ (feedEvent color d t).readStore a = t.readStore a)
      ∨ (feedEvent color d s).readStore a = (feedEvent color d t).readStore a := by
  have hi := eventIgnored_agrees color d hp hm
  have hn : nextWindow t color = nextWindow s color := by simp [nextWindow, hp, hw]
  cases hs : eventIgnored s.cfg s.rxPrev color d with
  | true =>
    rw [feedEvent_of_ignored hs, feedEvent_of_ignored (hi.trans hs)]
    exact ⟨hw, hp, ⟨[], ⟨.ok, rspNone⟩, by simp⟩, fun a => .inl (by simp)⟩
  | false =>
    cases hv : frameValid (nextWindow s color) with
    | false =>
      rw [feedEvent_of_invalid hs hv, feedEvent_of_invalid (hi.trans hs) (hn ▸ hv), hn]
      exact ⟨rfl, rfl, ⟨[], ⟨.ok, rspNone⟩, by simp⟩, fun a => .inl (by simp)⟩
    | true =>
      rw [feedEvent_of_valid hs hv, feedEvent_of_valid (hi.trans hs) (hn ▸ hv), hn]
      refine ⟨rfl, rfl, ⟨[_], _, rfl, rfl, rfl, rfl⟩, fun a => ?_⟩
      by_cases ha : a = windowIndex (nextWindow s color)
      · exact .inr (by simp [ha])
      · exact .inl (by simp [State.writeStore_readStore_other _ _ ha])

/-- The pure operations answer from their operands alone (R39, R73, R87, R88). -/
theorem exec_pure_answers_the_same {i : Instr} (hi : sideOf i = .pure) :
    ∃ r, ∀ s s', exec i s = .next s' → s'.responses = s.responses ++ [r] := by
  cases i with
  | crc8 | symf | symi => exact ⟨_, fun s s' h => by cases h; rfl⟩
  | txbegin | encw | feed | rdstore => cases hi

/-- Settles O22, one clause of the reads column after the other. -/
theorem operationsReadOnlyTheirRow : Obligations.OperationsReadOnlyTheirRow := by
  intro i s t s' t' hs ht
  refine ⟨fun hi => ?_, ?_, ?_, ?_, ?_, ?_⟩
  · obtain ⟨r, hr⟩ := exec_pure_answers_the_same hi
    exact ⟨r, hr s s' hs, hr t t' ht⟩
  · rintro rfl
    cases hs; cases ht
    exact ⟨rfl, rfl, rfl, _, rfl, rfl⟩
  · rintro ⟨index, word, rfl⟩ hp hd
    have hc : commandOf t.cfg = commandOf s.cfg := by funext c; simp [commandOf, hd]
    rw [exec_encw] at hs ht
    rw [← hp, hc] at ht
    cases hs; cases ht
    exact ⟨by simp, (serialize s.txPrev index word).map (commandOf s.cfg), ⟨.ok, rspNone⟩, by simp⟩
  · rintro color d rfl hp hm hi
    rw [exec_feed, feedEvent_of_ignored hi] at hs
    rw [exec_feed, feedEvent_of_ignored ((eventIgnored_agrees color _ hp hm).trans hi)] at ht
    cases hs; cases ht
    exact ⟨_, rfl, rfl⟩
  · rintro ⟨color, d, rfl⟩ hp hw hm
    cases hs; cases ht
    exact feedEvent_agrees color d.toNat hp hw hm
  · rintro index rfl hr
    rw [exec_rdstore] at hs ht
    rw [← hr] at ht
    cases hs; cases ht
    exact ⟨_, rfl, rfl⟩

/-! ### Streams and constants over a step -/

/-- No operation alters what a stream holds: ENCW and FEED append, and each operation gives a response (R21). -/
theorem exec_streams_grow {i : Instr} {s t : State} (he : exec i s = .next t) :
    s.txOut <+: t.txOut ∧ s.pktOut <+: t.pktOut ∧ s.responses <+: t.responses ∧ t.cfg = s.cfg := by
  cases i with
  | crc8 | symf | symi | txbegin | encw | rdstore => cases he; simp
  | feed color d =>
    cases he
    obtain ⟨r, hr, -⟩ := feedEvent_responses color d.toNat s
    simp [pktOut_isPrefix_feedEvent, hr]

/-- Settles O24: RESET and a refused word leave the streams or append to the responses, and an operation grows them. -/
theorem streamsGrowAndConstantsStay : Obligations.StreamsGrowAndConstantsStay := by
  intro s t hst
  rcases step_cases hst with ⟨_, rfl⟩ | ⟨_, _, rfl⟩ | ⟨_, _, _, _, _, rfl⟩ | ⟨_, i, _, _, _, he⟩
  · simp
  · simp
  · simp
  · simpa using exec_streams_grow he

/-! ### The state after the first reset -/

/-- Settles O9. -/
theorem stateAfterFirstReset : Obligations.StateAfterFirstReset :=
  ⟨rfl, by decide, rfl, rfl, fun _ => rfl, rfl, rfl⟩

/-- Settles O25: nothing is listed, stored or emitted after reset, and the constants are legal. -/
theorem resetMeetsTheInvariant : Obligations.ResetMeetsTheInvariant where
  cfg_wf := by decide
  store_wf := State.reset_store_wf
  store_latest := fun _ => rfl
  tx_duration := nofun
  tx_frames := rfl
  err_zero := nofun

end Sys2Proof.Machine

/-! Sequences of accepted events: what a list of FEEDs leaves, the symbols it carries, and the colours that carry given
symbols. With them a window can be steered to a valid frame from any seed (R148). -/

namespace Sys2Proof.Machine

/-! ### A list of events as one function of the receiver -/

/-- The state after the events, each one FEED. -/
def feedAll (events : List (Color × BitVec 16)) (s : State) : State :=
  events.foldl (fun s e => feedEvent e.1 e.2.toNat s) s

@[simp] theorem feedAll_nil (s : State) : feedAll [] s = s := rfl

@[simp] theorem feedAll_cons (e : Color × BitVec 16) (es : List (Color × BitVec 16)) (s : State) :
    feedAll (e :: es) s = feedAll es (feedEvent e.1 e.2.toNat s) := rfl

theorem feedAll_append (es fs : List (Color × BitVec 16)) (s : State) :
    feedAll (es ++ fs) s = feedAll fs (feedAll es s) := List.foldl_append

/-- FEEDs always complete, so running them is `feedAll` (R100). -/
theorem runInstrs_feeds (events : List (Color × BitVec 16)) (s : State) :
    runInstrs (feeds events) s = .next (feedAll events s) := by
  induction events generalizing s with
  | nil => rfl
  | cons e es ih => exact ih _

@[simp] theorem feedAll_cfg (events : List (Color × BitVec 16)) (s : State) : (feedAll events s).cfg = s.cfg := by
  induction events generalizing s with
  | nil => rfl
  | cons e es ih => simp [ih]

/-! ### Accepted events -/

theorem eventIgnored_eq_false_iff (cfg : Config) (prev color : Color) (d : Nat) :
    eventIgnored cfg prev color d = false ↔ cfg.minDuration ≤ d ∧ color ≠ prev := by
  simp [eventIgnored]

@[simp] theorem allAccepted_nil (cfg : Config) (prev : Color) : AllAccepted cfg prev [] := by
  simp [AllAccepted]

theorem allAccepted_cons (cfg : Config) (prev : Color) (e : Color × BitVec 16) (es : List (Color × BitVec 16)) :
    AllAccepted cfg prev (e :: es) ↔ eventIgnored cfg prev e.1 e.2.toNat = false ∧ AllAccepted cfg e.1 es := by
  simp only [AllAccepted, eventIgnored_eq_false_iff, List.forall_mem_cons, List.map_cons, List.isChain_cons_cons,
    ne_comm (a := prev)]
  tauto

@[simp] theorem lastColor_nil (p : Color) : lastColor p [] = p := rfl

@[simp] theorem lastColor_cons (p c : Color) (cs : List Color) : lastColor p (c :: cs) = lastColor c cs :=
  List.getLastD_cons ..

theorem allAccepted_append (cfg : Config) (prev : Color) (es fs : List (Color × BitVec 16)) :
    AllAccepted cfg prev (es ++ fs)
      ↔ AllAccepted cfg prev es ∧ AllAccepted cfg (lastColor prev (es.map Prod.fst)) fs := by
  induction es generalizing prev with
  | nil => simp
  | cons e es ih => simp [allAccepted_cons, ih, and_assoc]

@[simp] theorem feedEvent_rxWindow_of_accepted {color : Color} {d : Nat} {s : State}
    (h : eventIgnored s.cfg s.rxPrev color d = false) : (feedEvent color d s).rxWindow = nextWindow s color := by
  cases hv : frameValid (nextWindow s color) with
  | false => simp [feedEvent_of_invalid h hv]
  | true => simp [feedEvent_of_valid h hv]

@[simp] theorem feedEvent_rxPrev_of_accepted {color : Color} {d : Nat} {s : State}
    (h : eventIgnored s.cfg s.rxPrev color d = false) : (feedEvent color d s).rxPrev = color := by
  cases hv : frameValid (nextWindow s color) with
  | false => simp [feedEvent_of_invalid h hv]
  | true => simp [feedEvent_of_valid h hv]

/-- The symbols a receiver whose previous colour is `p` reads in a sequence of colours (R102). -/
def receivedSymbols (p : Color) : List Color → List Symbol
  | [] => []
  | c :: cs => symbolForTransition p c :: receivedSymbols c cs

/-- Accepted events shift their symbols into the window, in order (R103). -/
theorem feedAll_rxWindow {events : List (Color × BitVec 16)} {s : State} (h : AllAccepted s.cfg s.rxPrev events) :
    (feedAll events s).rxWindow = (receivedSymbols s.rxPrev (events.map Prod.fst)).foldl shiftIn s.rxWindow := by
  induction events generalizing s with
  | nil => rfl
  | cons e es ih =>
    obtain ⟨he, hes⟩ := (allAccepted_cons _ _ _ _).mp h
    rw [feedAll_cons, ih (by simpa [he] using hes)]
    simp [he, receivedSymbols, nextWindow]

/-- After accepted events the previous colour is that of the last one (R106). -/
theorem feedAll_rxPrev {events : List (Color × BitVec 16)} {s : State} (h : AllAccepted s.cfg s.rxPrev events) :
    (feedAll events s).rxPrev = lastColor s.rxPrev (events.map Prod.fst) := by
  induction events generalizing s with
  | nil => rfl
  | cons e es ih =>
    obtain ⟨he, hes⟩ := (allAccepted_cons _ _ _ _).mp h
    rw [feedAll_cons, ih (by simpa [he] using hes)]
    simp [he]

/-- The last of a sequence of accepted events emits the window's packet if it leaves the window valid (R105). -/
theorem feedAll_pktOut_of_last_valid {events : List (Color × BitVec 16)} {s : State}
    (h : AllAccepted s.cfg s.rxPrev events) (hne : events ≠ [])
    (hv : frameValid (feedAll events s).rxWindow = true) :
    (feedAll events s).pktOut
      = (feedAll (events.take (events.length - 1)) s).pktOut ++ [windowPacket (feedAll events s).rxWindow] := by
  obtain ⟨es, e, rfl⟩ := events.eq_nil_or_concat'.resolve_left hne
  rw [List.length_append, List.length_singleton, Nat.add_sub_cancel, List.take_left]
  obtain ⟨hes, he⟩ := (allAccepted_append _ _ _ _).mp h
  have hacc : eventIgnored (feedAll es s).cfg (feedAll es s).rxPrev e.1 e.2.toNat = false := by
    rw [feedAll_cfg, feedAll_rxPrev hes]
    exact ((allAccepted_cons _ _ _ _).mp he).1
  rw [feedAll_append, feedAll_cons, feedAll_nil, feedEvent_rxWindow_of_accepted hacc] at hv ⊢
  simp [feedEvent_of_valid hacc hv]

/-! ### Colours that carry given symbols -/

/-- Every symbol has a colour other than `prev` that carries it (R82, R85). -/
theorem symbolForTransition_colorForSymbol (prev : Color) (v : Symbol) :
    symbolForTransition prev (colorForSymbol prev v.toNat) = v := by
  revert v; cases prev <;> decide

theorem colorForSymbol_ne (prev : Color) (v : Symbol) : colorForSymbol prev v.toNat ≠ prev := by
  revert v; cases prev <;> decide

theorem receivedSymbols_colorChain (p : Color) (vs : List Symbol) : receivedSymbols p (colorChain p vs) = vs := by
  induction vs generalizing p with
  | nil => rfl
  | cons v vs ih => simp [colorChain, receivedSymbols, symbolForTransition_colorForSymbol, ih]

/-- The events that carry a list of symbols to a receiver whose previous colour is `p`, each of duration `d`. -/
def symbolEvents (p : Color) (d : BitVec 16) (vs : List Symbol) : List (Color × BitVec 16) :=
  (colorChain p vs).map (fun c => (c, d))

@[simp] theorem symbolEvents_length (p : Color) (d : BitVec 16) (vs : List Symbol) :
    (symbolEvents p d vs).length = vs.length := by
  simp [symbolEvents]

@[simp] theorem symbolEvents_colors (p : Color) (d : BitVec 16) (vs : List Symbol) :
    (symbolEvents p d vs).map Prod.fst = colorChain p vs := by
  rw [symbolEvents, List.map_map]
  exact List.map_id _

theorem allAccepted_symbolEvents {cfg : Config} {d : BitVec 16} (hd : cfg.minDuration ≤ d.toNat) (p : Color)
    (vs : List Symbol) : AllAccepted cfg p (symbolEvents p d vs) := by
  induction vs generalizing p with
  | nil => exact allAccepted_nil cfg p
  | cons v vs ih =>
    refine (allAccepted_cons _ _ _ _).mpr ⟨?_, ih _⟩
    exact (eventIgnored_eq_false_iff _ _ _ _).mpr ⟨hd, colorForSymbol_ne p v⟩

/-- Any symbols can be sent to any receiver, one accepted event each. -/
theorem exists_events_carrying {s : State} {d : BitVec 16} (hd : s.cfg.minDuration ≤ d.toNat) (vs : List Symbol) :
    ∃ events : List (Color × BitVec 16), events.length = vs.length ∧ AllAccepted s.cfg s.rxPrev events
      ∧ receivedSymbols s.rxPrev (events.map Prod.fst) = vs :=
  ⟨symbolEvents s.rxPrev d vs, symbolEvents_length _ _ _, allAccepted_symbolEvents hd _ _,
    by rw [symbolEvents_colors, receivedSymbols_colorChain]⟩

/-! ### Closing a window with its checksum -/

/-- The four symbols of a byte, the most significant pair first (R52). -/
def byteSymbols (b : Byte) : List Symbol :=
  [b.extractLsb' 6 2, b.extractLsb' 4 2, b.extractLsb' 2 2, b.extractLsb' 0 2]

/-- Shifting in a byte's four symbols shifts in the byte (R52, R103). -/
theorem foldl_shiftIn_byteSymbols (w : Window) (b : Byte) :
    (byteSymbols b).foldl shiftIn w = (w <<< 8) ||| b.zeroExtend 32 := by
  simp only [byteSymbols, List.foldl, shiftIn]
  ext i hi
  interval_cases i <;> simp

/-- A byte folded into the checksum field leaves the fields above it as they are (R54). -/
theorem extractLsb'_or_byte (w : Window) (c : Byte) {lo : Nat} (h : 8 ≤ lo) :
    (w ||| c.zeroExtend 32).extractLsb' lo 8 = w.extractLsb' lo 8 := by
  ext i hi
  have : c.getLsbD (lo + i) = false := BitVec.getLsbD_of_ge _ _ (by omega)
  simp [this]

theorem windowIndex_or_byte (w : Window) (c : Byte) : windowIndex (w ||| c.zeroExtend 32) = windowIndex w :=
  extractLsb'_or_byte w c (by decide)

theorem windowWord_or_byte (w : Window) (c : Byte) : windowWord (w ||| c.zeroExtend 32) = windowWord w := by
  rw [windowWord, windowWord, extractLsb'_or_byte w c (by decide), extractLsb'_or_byte w c (by decide)]

theorem windowChecksum_shifted_or_byte (w : Window) (c : Byte) :
    windowChecksum ((w <<< 8) ||| c.zeroExtend 32) = c := by
  ext i hi
  simp [windowChecksum, hi]
  omega

/-- The symbols of the checksum that makes a window valid once they are shifted in: the CRC of the word and index that
then stand above them (R105). -/
def closingSymbols (w : Window) : List Symbol :=
  byteSymbols (crc8 (windowWord (w <<< 8)) (windowIndex (w <<< 8)))

theorem frameValid_foldl_closingSymbols (w : Window) : frameValid ((closingSymbols w).foldl shiftIn w) = true := by
  rw [closingSymbols, foldl_shiftIn_byteSymbols, frameValid_iff, windowChecksum_shifted_or_byte, windowWord_or_byte,
    windowIndex_or_byte]

/-- `n` symbols 0 and the four that close the window they leave: `n + 4` symbols that end in a valid window (R148). -/
def matchingSymbols (n : Nat) (w : Window) : List Symbol :=
  List.replicate n 0 ++ closingSymbols ((List.replicate n 0).foldl shiftIn w)

theorem matchingSymbols_length (n : Nat) (w : Window) : (matchingSymbols n w).length = n + 4 := by
  simp [matchingSymbols, closingSymbols, byteSymbols]

theorem frameValid_foldl_matchingSymbols (n : Nat) (w : Window) :
    frameValid ((matchingSymbols n w).foldl shiftIn w) = true := by
  rw [matchingSymbols, List.foldl_append, frameValid_foldl_closingSymbols]

/-- Settles O45: `k - 4` symbols 0 and the four of the checksum, each held as long as the port can say, are accepted
and leave a valid window. -/
theorem earlyMatchIsPossible : Obligations.EarlyMatchIsPossible := by
  intro s k hk _ hmin
  have hd : s.resetInput.cfg.minDuration ≤ (BitVec.allOnes 16).toNat := Nat.le_of_lt_succ hmin
  obtain ⟨events, hlen, hacc, hsym⟩ := exists_events_carrying hd (matchingSymbols (k - 4) s.resetInput.rxWindow)
  rw [matchingSymbols_length, Nat.sub_add_cancel hk] at hlen
  have hv : frameValid (feedAll events s.resetInput).rxWindow = true := by
    rw [feedAll_rxWindow hacc, hsym]
    exact frameValid_foldl_matchingSymbols _ _
  have hne : events ≠ [] := List.ne_nil_of_length_pos (by omega)
  refine ⟨events, _, _, hlen, hacc, runInstrs_feeds _ _, runInstrs_feeds _ _, hv, ?_⟩
  rw [← hlen]
  exact feedAll_pktOut_of_last_valid hacc hne hv

end Sys2Proof.Machine

/-! Rules the statements of 20_memory.md need: the store's read as one equation, the decoder on the encoder's words,
lists of reads, and what the operations of each side read and write. -/

namespace Sys2Proof.Machine

/-! ### Reading the store (R31 to R33, R38) -/

theorem Memory.read_eq_getD (cfg : Config) (m : Memory) (index : Index) :
    Memory.read cfg m index = (Memory.lookup m index.toNat).getD (cfg.storeInit index) := by
  unfold Memory.read
  cases Memory.lookup m index.toNat <;> rfl

/-- Settles O27: a read is a look-up or else the free value, and the write's look-up lemma decides it. -/
theorem storeReadAfterWrite : Obligations.StoreReadAfterWrite := by
  intro cfg m a b w
  rw [Memory.read_eq_getD, Memory.lookup_write, Memory.read_eq_getD]
  split
  · rfl
  · rfl

/-- In a state that meets the invariant an entry reads as the word of the latest packet with its index (R38). -/
theorem State.Inv.readStore {s : State} (h : s.Inv) (index : Index) :
    s.readStore index = (latestWord s.pktOut index).getD (s.cfg.storeInit index) := by
  rw [State.readStore, Memory.read_eq_getD, h.store_latest]

/-- The response of RDSTORE carries the entry in its low half (R64). -/
@[simp] theorem extractLsb'_rspWord (w : Word) : (rspWord w).extractLsb' 0 16 = w := by
  rw [rspWord, BitVec.extractLsb'_setWidth_of_le (by decide), BitVec.extractLsb'_eq_self]

/-- Settles O28: RDSTORE answers what the entry reads as, and the invariant says what that is. -/
theorem rdstoreAnswersTheLatestPacket : Obligations.RdstoreAnswersTheLatestPacket := by
  intro index s h
  exact ⟨rspWord (s.readStore index), exec_rdstore index s, by rw [extractLsb'_rspWord, h.readStore]⟩

/-! ### The dump (R37) -/

/-- The responses to reads of the entries of a list, in order. -/
def readResponses (s : State) (indexes : List Index) : List Response :=
  indexes.map (fun i => { status := .ok, rsp := rspWord (s.readStore i) })

/-- Reads change nothing but the responses, so each entry reads as it did before the first (R109). -/
theorem runInstrs_rdstores (indexes : List Index) (s : State) :
    runInstrs (indexes.map .rdstore) s = .next { s with responses := s.responses ++ readResponses s indexes } := by
  induction indexes generalizing s with
  | nil => simp [runInstrs, readResponses]
  | cons i is ih =>
    rw [List.map_cons, runInstrs, exec_rdstore]
    simp [ih, readResponses, State.respond, State.readStore]

@[simp] theorem dumpBytes_length (rs : List Response) : (dumpBytes rs).length = 2 * rs.length := by
  induction rs with
  | nil => rfl
  | cons r rs ih => simp [dumpBytes, ih]; omega

/-- Response `i` gives bytes `2 * i` and `2 * i + 1` of the dump, low byte first (R37). -/
theorem dumpBytes_getElem? {rs : List Response} {i : Nat} {r : Response} (h : rs[i]? = some r) :
    (dumpBytes rs)[2 * i]? = some (lowByte (r.rsp.extractLsb' 0 16))
    ∧ (dumpBytes rs)[2 * i + 1]? = some (highByte (r.rsp.extractLsb' 0 16)) := by
  induction rs generalizing i with
  | nil => simp at h
  | cons q rs ih =>
    cases i with
    | zero =>
      obtain rfl : q = r := by simpa using h
      exact ⟨rfl, rfl⟩
    | succ i => exact ih (by simpa using h)

/-- The 256 indexes in order. -/
def allIndexes : List Index := (List.range 256).map (BitVec.ofNat 8)

/-- Settles O51: the dump is a list of reads, and response `i` is the one for entry `i`. -/
theorem dumpIsTheWholeStoreLittleEndian : Obligations.DumpIsTheWholeStoreLittleEndian := by
  intro s
  have hdump : dumpInstrs = allIndexes.map .rdstore := by simp [dumpInstrs, allIndexes]
  refine ⟨readResponses s allIndexes, hdump ▸ runInstrs_rdstores allIndexes s, ?_, fun i hi => ?_⟩
  · simp [readResponses, allIndexes]
  · have hr : (readResponses s allIndexes)[i]? =
        some { status := .ok, rsp := rspWord (s.readStore (BitVec.ofNat 8 i)) } := by
      simp [readResponses, allIndexes, hi]
    simpa [lowByte, highByte] using dumpBytes_getElem? hr

/-! ### Packing a message (R36, R97) -/

theorem packWords_length (bytes : List Byte) : (packWords bytes).length = (bytes.length + 1) / 2 := by
  induction bytes using packWords.induct with
  | case1 => rfl
  | case2 b => simp [packWords]
  | case3 b0 b1 rest ih => simp [packWords, ih]; omega

/-- Word `k` is made of bytes `2 * k` and `2 * k + 1`, a missing last byte counting as 0 (R36). -/
theorem packWords_getElem? {bytes : List Byte} {k : Nat} (h : k < (packWords bytes).length) :
    (packWords bytes)[k]? = some (bytes.getD (2 * k + 1) 0 ++ bytes.getD (2 * k) 0) := by
  induction bytes using packWords.induct generalizing k with
  | case1 => simp [packWords] at h
  | case2 b =>
    obtain rfl : k = 0 := by simpa [packWords] using h
    rfl
  | case3 b0 b1 rest ih =>
    cases k with
    | zero => rfl
    | succ k => exact ih (by simpa [packWords] using h)

@[simp] theorem encwFrom_length (n : Nat) (ws : List Word) : (encwFrom n ws).length = ws.length := by
  induction ws generalizing n with
  | nil => rfl
  | cons w ws ih => simp [encwFrom, ih]

/-- Word `k` of the list is sent at the index `k` above the first (R97). -/
theorem encwFrom_getElem? (n k : Nat) (ws : List Word) :
    (encwFrom n ws)[k]? = ws[k]?.map (.encw (BitVec.ofNat 8 (n + k))) := by
  induction ws generalizing n k with
  | nil => rfl
  | cons w ws ih =>
    cases k with
    | zero => rfl
    | succ k => rw [← Nat.add_assoc, Nat.add_right_comm]; exact ih (n + 1) k

/-- Settles O50: the message's words are the packed bytes up to the capacity, and word `k` goes out at index `k`. -/
theorem sendPacksLittleEndian : Obligations.SendPacksLittleEndian := by
  intro cfg bytes hlo hhi
  have hlen : (encwFrom 0 (messageWords cfg bytes)).length = min ((bytes.length + 1) / 2) cfg.txCapacity := by
    simp [messageWords, packWords_length, Nat.min_comm]
  refine ⟨_, by rw [sendInstrs, if_pos ⟨hlo, hhi⟩], hlen, fun k hk => ?_⟩
  rw [hlen, ← packWords_length] at hk
  obtain ⟨hpack, hcap⟩ := lt_min_iff.mp hk
  rw [encwFrom_getElem?, messageWords, List.getElem?_take_of_lt hcap, packWords_getElem? hpack, Nat.zero_add]
  rfl

/-! ### Issuing command words (R38, R57) -/

@[simp] theorem colorOfCode_colorCode (c : Color) : colorOfCode (colorCode c) = some c := by
  cases c <;> rfl

/-- The decoder reads back each field where the encoder's layout puts it (R58 to R64). -/
theorem decode_encode (i : Instr) : decode (encode i) = .ok i := by
  cases i
  case txbegin => rfl
  case' crc8 => unfold decode encode decodeCrc8
  case' symf => unfold decode encode decodeSymf
  case' symi => unfold decode encode decodeSymi
  case' encw => unfold decode encode decodeEncw
  case' feed => unfold decode encode decodeFeed
  case' rdstore => unfold decode encode decodeRdstore
  all_goals
    unfold field
    repeat rw [BitVec.extractLsb'_append_eq_ite]
    simp

theorem step_of_operation {s : State} {w : CmdWord} {rest : List PortEvent} {i : Instr} (hp : s.port = .cmd w :: rest)
    (hd : decode w = .ok i) : step s = exec i s.advance := by
  simp [step, fetch_operation hp hd]

/-- The input just placed on an empty port is the one taken. -/
theorem State.advance_of_placed {s : State} (hp : s.port = []) (e : PortEvent) :
    ({ s with port := s.port ++ [e] } : State).advance = s := by
  obtain ⟨_, _, _, _, _, _, _, port, _⟩ := s
  obtain rfl : port = [] := hp
  rfl

/-- A command word issued to an empty port is taken at once and runs as its operation (R40, R57). -/
theorem Session.issue_encode_block {h : Session} {i : Instr} {t : State} (hp : h.block.port = [])
    (he : exec i h.block = .next t) : (h.issue (.cmd (encode i))).block = t := by
  rw [Session.issue, step_of_operation (rest := []) (by simp [hp]) (decode_encode i), State.advance_of_placed hp, he]

/-- Settles O52: each word issued runs its operation and leaves the port empty for the next. -/
theorem sessionRunsTheIssuedOperations : Obligations.SessionRunsTheIssuedOperations := by
  intro h is hp
  induction is generalizing h with
  | nil => exact ⟨h.block, rfl, rfl⟩
  | cons i is ih =>
    obtain ⟨t, he, _, _, _, _, hport, _⟩ := operationsWriteOnlyTheirRow i h.block
    have hb := Session.issue_encode_block hp he
    obtain ⟨u, hu, hissue⟩ := ih (h.issue (.cmd (encode i))) (by rw [hb, hport, hp])
    exact ⟨u, by rw [runInstrs, he, ← hu, hb], hissue⟩

/-! ### The two sides (R39) -/

/-- What an operation that is not of the receive side can do: set `tx_prev`, emit commands and respond (R23). -/
def State.transmitted (s : State) (c : Color) (cs : List Command) (r : BitVec 32) : State :=
  ((s.emitCommands cs).setTxPrev c).respond .ok r

/-- What an operation that is not of the transmit side can do: set the receiver and the store, emit packets and respond
(R23). -/
def State.received (s : State) (w : Window) (c : Color) (m : Memory) (ps : List Packet) (r : BitVec 32) : State :=
  ({ s with rxWindow := w, rxPrev := c, store := m, pktOut := s.pktOut ++ ps } : State).respond .ok r

/-- The two states agree on everything an operation that is not of the receive side reads (R23). -/
structure State.SameTransmitter (s t : State) : Prop where
  txPrev : t.txPrev = s.txPrev
  cfg : t.cfg = s.cfg

/-- The two states agree on everything an operation that is not of the transmit side reads (R23). -/
structure State.SameReceiver (s t : State) : Prop where
  rxWindow : t.rxWindow = s.rxWindow
  rxPrev : t.rxPrev = s.rxPrev
  store : t.store = s.store
  cfg : t.cfg = s.cfg

theorem State.SameTransmitter.respond_eq {s t : State} (h : s.SameTransmitter t) (r : BitVec 32) :
    t.respond .ok r = t.transmitted s.txPrev [] r := by
  simp [State.transmitted, State.emitCommands, State.setTxPrev, ← h.txPrev]

theorem State.SameReceiver.respond_eq {s t : State} (h : s.SameReceiver t) (r : BitVec 32) :
    t.respond .ok r = t.received s.rxWindow s.rxPrev s.store [] r := by
  simp [State.received, ← h.rxWindow, ← h.rxPrev, ← h.store]

/-- Outside the receive side what an operation does is decided by `tx_prev` and the constants (R23). -/
theorem exec_transmitted {i : Instr} (hi : sideOf i ≠ .receive) (s : State) :
    ∃ c cs r, ∀ t : State, s.SameTransmitter t → exec i t = .next (t.transmitted c cs r) := by
  cases i with
  | crc8 | symf | symi =>
    exact ⟨s.txPrev, [], _, fun t h => congrArg Host.Outcome.next (h.respond_eq _)⟩
  | txbegin => exact ⟨.off, [], rspNone, fun t _ => by simp [exec_txbegin, State.transmitted, State.emitCommands]⟩
  | encw index word =>
    refine ⟨lastColor s.txPrev (serialize s.txPrev index word),
      (serialize s.txPrev index word).map (commandOf s.cfg), rspNone, fun t h => ?_⟩
    rw [exec_encw, h.txPrev, h.cfg, State.transmitted]
  | feed | rdstore => exact absurd rfl hi

theorem State.SameReceiver.nextWindow_eq {s t : State} (h : s.SameReceiver t) (color : Color) :
    nextWindow t color = nextWindow s color := by
  rw [nextWindow, nextWindow, h.rxWindow, h.rxPrev]

theorem State.SameReceiver.eventIgnored_eq {s t : State} (h : s.SameReceiver t) (color : Color) (d : Nat) :
    eventIgnored t.cfg t.rxPrev color d = eventIgnored s.cfg s.rxPrev color d :=
  eventIgnored_agrees color d h.rxPrev.symm (by rw [h.cfg])

theorem State.SameReceiver.readStore_eq {s t : State} (h : s.SameReceiver t) (index : Index) :
    t.readStore index = s.readStore index := by
  rw [State.readStore, State.readStore, h.store, h.cfg]

/-- Receivers that agree take the same branch of one event with the same new window (R101 to R105). -/
theorem feedEvent_received (color : Color) (d : Nat) (s : State) :
    ∃ w c m ps r, ∀ t : State, s.SameReceiver t → feedEvent color d t = t.received w c m ps r := by
  cases hi : eventIgnored s.cfg s.rxPrev color d with
  | true =>
    refine ⟨s.rxWindow, s.rxPrev, s.store, [], rspNone, fun t h => ?_⟩
    rw [feedEvent_of_ignored (by rw [h.eventIgnored_eq, hi]), h.respond_eq]
  | false =>
    cases hv : frameValid (nextWindow s color) with
    | false =>
      refine ⟨nextWindow s color, color, s.store, [], rspNone, fun t h => ?_⟩
      rw [feedEvent_of_invalid (by rw [h.eventIgnored_eq, hi]) (by rw [h.nextWindow_eq, hv]), h.nextWindow_eq]
      simp [State.received, State.respond, State.setRxWindow, State.setRxPrev, ← h.store]
    | true =>
      refine ⟨nextWindow s color, color,
        Memory.write s.store (windowIndex (nextWindow s color)) (windowWord (nextWindow s color)),
        [windowPacket (nextWindow s color)], rspPacket (windowPacket (nextWindow s color)), fun t h => ?_⟩
      rw [feedEvent_of_valid (by rw [h.eventIgnored_eq, hi]) (by rw [h.nextWindow_eq, hv]), h.nextWindow_eq,
        ← h.store]
      rfl

/-- Outside the transmit side what an operation does is decided by the receiver, the store and the constants (R23). -/
theorem exec_received {i : Instr} (hi : sideOf i ≠ .transmit) (s : State) :
    ∃ w c m ps r, ∀ t : State, s.SameReceiver t → exec i t = .next (t.received w c m ps r) := by
  cases i with
  | crc8 | symf | symi =>
    exact ⟨s.rxWindow, s.rxPrev, s.store, [], _, fun t h => congrArg Host.Outcome.next (h.respond_eq _)⟩
  | feed color d =>
    obtain ⟨w, c, m, ps, r, h⟩ := feedEvent_received color d.toNat s
    exact ⟨w, c, m, ps, r, fun t ht => by rw [exec_feed, h t ht]⟩
  | rdstore index =>
    refine ⟨s.rxWindow, s.rxPrev, s.store, [], rspWord (s.readStore index), fun t h => ?_⟩
    rw [exec_rdstore, h.readStore_eq, h.respond_eq]
  | txbegin | encw => exact absurd rfl hi

/-- Neither part of the block reads what the other writes, so the order does not matter (R39). -/
theorem runInstrs_commute {i j : Instr} (hi : sideOf i ≠ .receive) (hj : sideOf j ≠ .transmit) (s : State) :
    ∃ (t u : State) (a b : Response), runInstrs [i, j] s = .next t ∧ runInstrs [j, i] s = .next u
      ∧ { t with responses := [] } = { u with responses := [] }
      ∧ t.responses = s.responses ++ [a, b] ∧ u.responses = s.responses ++ [b, a] := by
  obtain ⟨c, cs, r, htx⟩ := exec_transmitted hi s
  obtain ⟨w, p, m, ps, q, hrx⟩ := exec_received hj s
  have hij : runInstrs [i, j] s = .next ((s.transmitted c cs r).received w p m ps q) := by
    simp only [runInstrs, htx s ⟨rfl, rfl⟩, hrx (s.transmitted c cs r) ⟨rfl, rfl, rfl, rfl⟩]
  have hji : runInstrs [j, i] s = .next ((s.received w p m ps q).transmitted c cs r) := by
    simp only [runInstrs, hrx s ⟨rfl, rfl, rfl, rfl⟩, htx (s.received w p m ps q) ⟨rfl, rfl⟩]
  exact ⟨_, _, ⟨.ok, r⟩, ⟨.ok, q⟩, hij, hji, rfl, List.append_assoc .., List.append_assoc ..⟩

/-- Of two different sides one is not the receive side and the other not the transmit side. -/
theorem sides_apart {a b : Side} (h : a ≠ b) :
    (a ≠ .receive ∧ b ≠ .transmit) ∨ (b ≠ .receive ∧ a ≠ .transmit) := by
  by_cases ha : a = .receive
  · exact .inr ⟨ha ▸ h.symm, ha ▸ nofun⟩
  · by_cases hb : b = .transmit
    · exact .inr ⟨hb ▸ nofun, hb ▸ h⟩
    · exact .inl ⟨ha, hb⟩

/-- Settles O23: whichever of the two operations can stand on the transmit side, swapping them gives the same. -/
theorem sidesCommute : Obligations.SidesCommute := by
  intro i j s hne
  rcases sides_apart hne with ⟨hi, hj⟩ | ⟨hj, hi⟩
  · exact runInstrs_commute hi hj s
  · obtain ⟨u, t, b, a, hu, ht, heq, hub, hta⟩ := runInstrs_commute hj hi s
    exact ⟨t, u, a, b, ht, hu, heq.symm, hta, hub⟩

end Sys2Proof.Machine

/-! The command words of 30_encoding.md: what each layout decodes to, that the encoder and the decoder are inverse, which
words are refused, what a row of the opcode table says of its words' fields; then frames, commands and REPLAY on the
port. -/

namespace Sys2Proof.Machine

/-! ### Fields of a word and colour codes (R50, R68) -/

theorem extractLsb'_eq_field (w : CmdWord) (lo n : Nat) : w.extractLsb' lo n = field w lo n := rfl

theorem field_full (w : CmdWord) : field w 0 32 = w := BitVec.extractLsb'_eq_self

/-- Two adjacent fields of a word make the field that spans them. -/
theorem field_append_field (w : CmdWord) {hi lo n m : Nat} (h : hi = lo + n) :
    field w hi m ++ field w lo n = field w lo (m + n) :=
  BitVec.extractLsb'_append_extractLsb'_eq_extractLsb' h

/-- Four adjacent fields down to bit 0 make the low part of the word, as most layouts have it. -/
theorem field_append_four (w : CmdWord) (m₁ m₂ m₃ m₄ : Nat) :
    field w (m₄ + m₃ + m₂) m₁ ++ field w (m₄ + m₃) m₂ ++ field w m₄ m₃ ++ field w 0 m₄ =
      field w 0 (m₁ + m₂ + m₃ + m₄) := by
  rw [field_append_field w rfl, field_append_field w rfl, field_append_field w (Nat.zero_add m₄).symm]

theorem colorOfCode_eq_some_iff (k : BitVec 3) (c : Color) : colorOfCode k = some c ↔ k = colorCode c := by
  revert k
  cases c <;> decide

/-- The codes of colours are 0 to 4 (R50). -/
theorem exists_eq_colorCode_iff (k : BitVec 3) : (∃ c, k = colorCode c) ↔ k.toNat < 5 := by
  simp only [← colorOfCode_eq_some_iff, ← Option.isSome_iff_exists]
  revert k
  decide

/-! ### What each layout decodes to (R58 to R64) -/

/-- The check of the reserved bits lets through what the rest of the layout decodes to (R65). -/
theorem checked_eq_ok_iff {p : Prop} [Decidable p] (d : Decoded) (why : Illegal) (i : Instr) :
    (if p then d else .illegal why) = .ok i ↔ p ∧ d = .ok i := by
  split
  · next h => simp [h]
  · next h => simp [h]

theorem decodeCrc8_eq_ok_iff (w : CmdWord) (i : Instr) : decodeCrc8 w = .ok i ↔
    field w 24 4 = 0 ∧ i = .crc8 (field w 8 16) (field w 0 8) := by
  rw [decodeCrc8, checked_eq_ok_iff, Decoded.ok.injEq, eq_comm (b := i)]

theorem decodeSymf_eq_ok_iff (w : CmdWord) (i : Instr) : decodeSymf w = .ok i ↔
    field w 6 22 = 0 ∧ ∃ prev curr, field w 3 3 = colorCode prev ∧ field w 0 3 = colorCode curr
      ∧ i = .symf prev curr := by
  simp only [decodeSymf, checked_eq_ok_iff, ← colorOfCode_eq_some_iff]
  cases colorOfCode (field w 3 3) <;> cases colorOfCode (field w 0 3) <;> simp [eq_comm]

theorem decodeSymi_eq_ok_iff (w : CmdWord) (i : Instr) : decodeSymi w = .ok i ↔
    field w 11 17 = 0 ∧ ∃ prev, field w 8 3 = colorCode prev ∧ i = .symi prev (field w 0 8) := by
  simp only [decodeSymi, checked_eq_ok_iff, ← colorOfCode_eq_some_iff]
  cases colorOfCode (field w 8 3) <;> simp [eq_comm]

theorem decodeTxbegin_eq_ok_iff (w : CmdWord) (i : Instr) : decodeTxbegin w = .ok i ↔
    field w 0 28 = 0 ∧ i = .txbegin := by
  rw [decodeTxbegin, checked_eq_ok_iff, Decoded.ok.injEq, eq_comm (b := i)]

theorem decodeEncw_eq_ok_iff (w : CmdWord) (i : Instr) : decodeEncw w = .ok i ↔
    field w 24 4 = 0 ∧ i = .encw (field w 16 8) (field w 0 16) := by
  rw [decodeEncw, checked_eq_ok_iff, Decoded.ok.injEq, eq_comm (b := i)]

theorem decodeFeed_eq_ok_iff (w : CmdWord) (i : Instr) : decodeFeed w = .ok i ↔
    field w 19 9 = 0 ∧ ∃ color, field w 16 3 = colorCode color ∧ i = .feed color (field w 0 16) := by
  simp only [decodeFeed, checked_eq_ok_iff, ← colorOfCode_eq_some_iff]
  cases colorOfCode (field w 16 3) <;> simp [eq_comm]

theorem decodeRdstore_eq_ok_iff (w : CmdWord) (i : Instr) : decodeRdstore w = .ok i ↔
    field w 8 20 = 0 ∧ i = .rdstore (field w 0 8) := by
  rw [decodeRdstore, checked_eq_ok_iff, Decoded.ok.injEq, eq_comm (b := i)]

/-! ### Encoder and decoder are inverse -/

/-- Settles O2: the decoder reads each operand back from where the encoder put it. -/
theorem decodeOfEncodeIsTheInstruction : Obligations.DecodeOfEncodeIsTheInstruction :=
  fun i _ => decode_encode i

/-- What a layout decodes to has the word's own fields as operands and the word's own `op`, and its reserved bits are
0: joined again, in order, they are the word (R65). -/
theorem encode_of_decode {w : CmdWord} {i : Instr} (h : decode w = .ok i) : encode i = w := by
  unfold decode at h
  split at h
  · next hop =>
    obtain ⟨hres, rfl⟩ := (decodeCrc8_eq_ok_iff w i).mp h
    rw [encode, ← hop, ← hres]
    exact (field_append_four w 4 4 16 8).trans (field_full w)
  split at h
  · next hop =>
    obtain ⟨hres, prev, curr, hprev, hcurr, rfl⟩ := (decodeSymf_eq_ok_iff w i).mp h
    rw [encode, ← hop, ← hres, ← hprev, ← hcurr]
    exact (field_append_four w 4 22 3 3).trans (field_full w)
  split at h
  · next hop =>
    obtain ⟨hres, prev, hprev, rfl⟩ := (decodeSymi_eq_ok_iff w i).mp h
    rw [encode, ← hop, ← hres, ← hprev]
    exact (field_append_four w 4 17 3 8).trans (field_full w)
  split at h
  · next hop =>
    obtain ⟨hres, rfl⟩ := (decodeTxbegin_eq_ok_iff w i).mp h
    rw [encode, ← hop, ← hres]
    exact (field_append_field w rfl).trans (field_full w)
  split at h
  · next hop =>
    obtain ⟨hres, rfl⟩ := (decodeEncw_eq_ok_iff w i).mp h
    rw [encode, ← hop, ← hres]
    exact (field_append_four w 4 4 8 16).trans (field_full w)
  split at h
  · next hop =>
    obtain ⟨hres, color, hcolor, rfl⟩ := (decodeFeed_eq_ok_iff w i).mp h
    rw [encode, ← hop, ← hres, ← hcolor]
    exact (field_append_four w 4 9 3 16).trans (field_full w)
  split at h
  · next hop =>
    obtain ⟨hres, rfl⟩ := (decodeRdstore_eq_ok_iff w i).mp h
    rw [encode, ← hop, ← hres, field_append_field w (hi := 28) (lo := 8) rfl]
    exact (field_append_field w rfl).trans (field_full w)
  · cases h

/-- Settles O3. -/
theorem encodeOfDecodeIsTheWord : Obligations.EncodeOfDecodeIsTheWord :=
  fun _ _ h => encode_of_decode h

/-! ### The words that are refused (R65) -/

theorem refusalGround_crc8 {w : CmdWord} (hop : field w 28 4 = 1) : RefusalGround w ↔ field w 24 4 ≠ 0 := by
  simp [RefusalGround, extractLsb'_eq_field, hop]

theorem refusalGround_symf {w : CmdWord} (hop : field w 28 4 = 2) :
    RefusalGround w ↔ field w 6 22 ≠ 0 ∨ 5 ≤ (field w 3 3).toNat ∨ 5 ≤ (field w 0 3).toNat := by
  simp [RefusalGround, extractLsb'_eq_field, hop]

theorem refusalGround_symi {w : CmdWord} (hop : field w 28 4 = 3) :
    RefusalGround w ↔ field w 11 17 ≠ 0 ∨ 5 ≤ (field w 8 3).toNat := by
  simp [RefusalGround, extractLsb'_eq_field, hop]

theorem refusalGround_txbegin {w : CmdWord} (hop : field w 28 4 = 4) : RefusalGround w ↔ field w 0 28 ≠ 0 := by
  simp [RefusalGround, extractLsb'_eq_field, hop]

theorem refusalGround_encw {w : CmdWord} (hop : field w 28 4 = 5) : RefusalGround w ↔ field w 24 4 ≠ 0 := by
  simp [RefusalGround, extractLsb'_eq_field, hop]

theorem refusalGround_feed {w : CmdWord} (hop : field w 28 4 = 6) :
    RefusalGround w ↔ field w 19 9 ≠ 0 ∨ 5 ≤ (field w 16 3).toNat := by
  simp [RefusalGround, extractLsb'_eq_field, hop]

theorem refusalGround_rdstore {w : CmdWord} (hop : field w 28 4 = 7) : RefusalGround w ↔ field w 8 20 ≠ 0 := by
  simp [RefusalGround, extractLsb'_eq_field, hop]

/-- An `op` that is no operation's is 0 or above 7. -/
theorem op_reserved_of_ne : ∀ op : BitVec 4, op ≠ 1 → op ≠ 2 → op ≠ 3 → op ≠ 4 → op ≠ 5 → op ≠ 6 → op ≠ 7 →
    op = 0 ∨ 8 ≤ op.toNat := by
  decide

/-- Layout by layout, the word decodes exactly when its reserved bits are 0 and its colour fields are codes. -/
theorem exists_decode_eq_ok_iff (w : CmdWord) : (∃ i, decode w = .ok i) ↔ ¬ RefusalGround w := by
  unfold decode
  split
  · next hop => simp [refusalGround_crc8 hop, decodeCrc8_eq_ok_iff]
  split
  · next hop => simp [refusalGround_symf hop, decodeSymf_eq_ok_iff, exists_eq_colorCode_iff]
  split
  · next hop => simp [refusalGround_symi hop, decodeSymi_eq_ok_iff, exists_eq_colorCode_iff]
  split
  · next hop => simp [refusalGround_txbegin hop, decodeTxbegin_eq_ok_iff]
  split
  · next hop => simp [refusalGround_encw hop, decodeEncw_eq_ok_iff]
  split
  · next hop => simp [refusalGround_feed hop, decodeFeed_eq_ok_iff, exists_eq_colorCode_iff]
  split
  · next hop => simp [refusalGround_rdstore hop, decodeRdstore_eq_ok_iff]
  · next h1 h2 h3 h4 h5 h6 h7 =>
    have hground : RefusalGround w := .inl (op_reserved_of_ne _ h1 h2 h3 h4 h5 h6 h7)
    simp [hground]

theorem exists_decode_eq_illegal_iff (w : CmdWord) :
    (∃ why, decode w = .illegal why) ↔ ¬ ∃ i, decode w = .ok i := by
  cases decode w <;> simp

/-- Settles O4: a word is refused when it does not decode, and it decodes when it has none of the grounds. -/
theorem refusedExactlyOnARefusalGround : Obligations.RefusedExactlyOnARefusalGround := by
  intro w
  exact ⟨by rw [exists_decode_eq_illegal_iff, exists_decode_eq_ok_iff, not_not], exists_decode_eq_ok_iff w⟩

/-! ### The rows of the opcode table -/

/-- A field whose bits a row fixes holds what the row's value has there. -/
theorem field_of_admits {r : TableRow} {w : CmdWord} (h : r.admits w = true) {lo n : Nat}
    (hmask : field r.mask lo n = BitVec.allOnes n) : field w lo n = field r.value lo n := by
  simp only [TableRow.admits, Bool.and_eq_true, beq_iff_eq] at h
  obtain ⟨hfixed, -⟩ := h
  rw [← hfixed, field, field, BitVec.extractLsb'_and, extractLsb'_eq_field r.mask, hmask, BitVec.and_allOnes]

theorem colorField_of_admits {r : TableRow} {w : CmdWord} (h : r.admits w = true) {lo : Nat}
    (hlo : lo ∈ r.colorFields) : (field w lo 3).toNat < 5 := by
  simp only [TableRow.admits, Bool.and_eq_true, List.all_eq_true, decide_eq_true_eq] at h
  obtain ⟨-, hcolors⟩ := h
  exact Nat.lt_succ_of_le (hcolors lo hlo)

/-- A row fixes its `op` and its reserved bits and bounds its colour fields, so its words have no ground. -/
theorem not_refusalGround_of_admits {r : TableRow} {w : CmdWord} (hr : r ∈ opcodeTable) (h : r.admits w = true) :
    ¬ RefusalGround w := by
  simp only [opcodeTable, List.mem_cons, List.not_mem_nil, or_false] at hr
  rcases hr with rfl | rfl | rfl | rfl | rfl | rfl | rfl
  · have hres : field w 24 4 = 0 := field_of_admits h (by decide)
    simp [refusalGround_crc8 (w := w) (field_of_admits h (by decide)), hres]
  · have hres : field w 6 22 = 0 := field_of_admits h (by decide)
    have hprev : (field w 3 3).toNat < 5 := colorField_of_admits h (by decide)
    have hcurr : (field w 0 3).toNat < 5 := colorField_of_admits h (by decide)
    simp [refusalGround_symf (w := w) (field_of_admits h (by decide)), hres, hprev, hcurr]
  · have hres : field w 11 17 = 0 := field_of_admits h (by decide)
    have hprev : (field w 8 3).toNat < 5 := colorField_of_admits h (by decide)
    simp [refusalGround_symi (w := w) (field_of_admits h (by decide)), hres, hprev]
  · have hres : field w 0 28 = 0 := field_of_admits h (by decide)
    simp [refusalGround_txbegin (w := w) (field_of_admits h (by decide)), hres]
  · have hres : field w 24 4 = 0 := field_of_admits h (by decide)
    simp [refusalGround_encw (w := w) (field_of_admits h (by decide)), hres]
  · have hres : field w 19 9 = 0 := field_of_admits h (by decide)
    have hcolor : (field w 16 3).toNat < 5 := colorField_of_admits h (by decide)
    simp [refusalGround_feed (w := w) (field_of_admits h (by decide)), hres, hcolor]
  · have hres : field w 8 20 = 0 := field_of_admits h (by decide)
    simp [refusalGround_rdstore (w := w) (field_of_admits h (by decide)), hres]

theorem opcodeTable_fixes_op : ∀ r ∈ opcodeTable, field r.mask 28 4 = BitVec.allOnes 4 := by decide

theorem opcodeTable_op_injective : ∀ r ∈ opcodeTable, ∀ r' ∈ opcodeTable,
    field r.value 28 4 = field r'.value 28 4 → r = r' := by decide

/-- No word is of two rows: each row fixes `op`, and no two rows fix it alike (R57). -/
theorem opcodeRow_unique {r r' : TableRow} {w : CmdWord} (hr : r ∈ opcodeTable) (hr' : r' ∈ opcodeTable)
    (h : r.admits w = true) (h' : r'.admits w = true) : r = r' :=
  opcodeTable_op_injective r hr r' hr' <| by
    rw [← field_of_admits h (opcodeTable_fixes_op r hr), ← field_of_admits h' (opcodeTable_fixes_op r' hr')]

theorem opcodeRow_admits_encode : ∀ i : Instr, Laws.OpcodeRow.Statement i
  | .crc8 word index => Laws.OpcodeRow.crc8 word index
  | .symf prev curr => Laws.OpcodeRow.symf prev curr
  | .symi prev v => Laws.OpcodeRow.symi prev v
  | .txbegin => Laws.OpcodeRow.txbegin
  | .encw index word => Laws.OpcodeRow.encw index word
  | .feed color duration => Laws.OpcodeRow.feed color duration
  | .rdstore index => Laws.OpcodeRow.rdstore index

/-- The word is the encoding of its operation, and so is one of that operation's row. -/
theorem opcodeRow_admits_of_decode {w : CmdWord} {i : Instr} (h : decode w = .ok i) :
    opcodeRow i ∈ opcodeTable ∧ (opcodeRow i).admits w = true := by
  rw [← encode_of_decode h]
  exact opcodeRow_admits_encode i

/-- Settles O5: a word that decodes is one of its operation's row, a row's word has no ground of refusal, and no word is
of two rows. -/
theorem decoderAgreesWithOpcodeTable : Obligations.DecoderAgreesWithOpcodeTable := by
  intro w
  refine ⟨⟨fun ⟨i, h⟩ => ?_, fun h => ?_⟩, fun i h => ?_⟩
  · exact List.any_eq_true.mpr ⟨opcodeRow i, opcodeRow_admits_of_decode h⟩
  · obtain ⟨r, hr, hw⟩ := List.any_eq_true.mp h
    exact (exists_decode_eq_ok_iff w).mpr (not_refusalGround_of_admits hr hw)
  · obtain ⟨hmem, hadmits⟩ := opcodeRow_admits_of_decode h
    exact ⟨hmem, hadmits, fun r hr hw => opcodeRow_unique hr hmem hw hadmits⟩

/-! ### Frames (R52 to R54, R103) -/

theorem windowIndex_frameOf (index : Index) (word : Word) (c : Byte) : windowIndex (frameOf index word c) = index := by
  rw [windowIndex, frameOf, BitVec.extractLsb'_append_eq_of_le (by decide),
    BitVec.extractLsb'_append_eq_of_le (by decide)]
  exact BitVec.extractLsb'_append_eq_left

theorem windowWord_frameOf (index : Index) (word : Word) (c : Byte) : windowWord (frameOf index word c) = word := by
  have hlow : (frameOf index word c).extractLsb' 16 8 = lowByte word := by
    rw [frameOf, BitVec.extractLsb'_append_eq_of_le (by decide), BitVec.extractLsb'_append_eq_of_le (by decide)]
    exact BitVec.extractLsb'_append_eq_right
  have hhigh : (frameOf index word c).extractLsb' 8 8 = highByte word := by
    rw [frameOf, BitVec.extractLsb'_append_eq_of_le (by decide)]
    exact BitVec.extractLsb'_append_eq_right
  rw [windowWord, wordOfBytes, hlow, hhigh]
  exact BitVec.extractLsb'_append_extractLsb'

theorem windowChecksum_frameOf (index : Index) (word : Word) (c : Byte) : windowChecksum (frameOf index word c) = c :=
  BitVec.extractLsb'_append_eq_right

/-- Seen in its low bits, shifting a symbol in appends it (R103). -/
theorem field_shiftIn (w : Window) (s : Symbol) {n : Nat} (hn : n ≤ 30) :
    field (shiftIn w s) 0 (n + 2) = field w 0 n ++ s := by
  apply BitVec.eq_of_getLsbD_eq
  intro i hi
  rw [field, shiftIn, BitVec.getLsbD_extractLsb', BitVec.getLsbD_append, BitVec.getLsbD_or, BitVec.getLsbD_shiftLeft]
  have hi32 : i < 32 := by omega
  by_cases h : i < 2
  · simp [h, hi, hi32]
  · have hs : s.getLsbD i = false := BitVec.getLsbD_of_ge _ _ (by omega)
    simp [field, h, hi, hi32, hs, show i - 2 < n by omega]

/-- The first `k` symbols of a frame leave its top `2 * k` bits at the low end of any window. -/
theorem field_foldl_frameSymbol (frame w : Window) {k : Nat} (hk : k ≤ 16) :
    field (((List.range k).map (frameSymbol frame)).foldl shiftIn w) 0 (2 * k) = field frame (32 - 2 * k) (2 * k) := by
  induction k with
  | zero => exact BitVec.of_length_zero.trans BitVec.of_length_zero.symm
  | succ k ih =>
    rw [List.range_succ, List.map_append, List.foldl_append, Nat.mul_succ, show 32 - (2 * k + 2) = 30 - 2 * k by omega]
    refine (field_shiftIn _ (frameSymbol frame k) (by omega)).trans ?_
    rw [ih (by omega)]
    exact field_append_field frame (hi := 32 - 2 * k) (lo := 30 - 2 * k) (by omega)

/-- Settles O38: after 16 symbols the low bits that are the frame's are all of the window. -/
theorem shiftingSixteenSymbolsGivesTheFrame : Obligations.ShiftingSixteenSymbolsGivesTheFrame := by
  refine ⟨fun index word c => ⟨windowIndex_frameOf index word c, windowWord_frameOf index word c,
    windowChecksum_frameOf index word c⟩, fun frame w => ?_⟩
  calc (frameSymbols frame).foldl shiftIn w
    _ = field ((frameSymbols frame).foldl shiftIn w) 0 32 := (field_full _).symm
    _ = field frame 0 32 := field_foldl_frameSymbol frame w (le_refl 16)
    _ = frame := field_full frame

/-! ### Command words and commands on the port (R55, R57, R67) -/

/-- Settles O1: the decoder, run on the ten words. -/
theorem specWordsDecodeAsWritten : Obligations.SpecWordsDecodeAsWritten := by
  unfold Obligations.SpecWordsDecodeAsWritten
  decide

/-- Settles O6: with the port known, taking its oldest input leaves the rest of it. -/
theorem stepRunsTheDecodedOperation : Obligations.StepRunsTheDecodedOperation := by
  intro s w rest i hp hd _
  rw [step_of_operation hp hd, State.advance, hp, List.tail_cons]

/-- Settles O37: the two fields are the two parts the port's word is joined from. -/
theorem commandOnAPort : Obligations.CommandOnAPort := by
  intro cfg c
  rw [commandPortBits, BitVec.extractLsb'_append_eq_left, BitVec.extractLsb'_append_eq_right, BitVec.toNat_ofNat]
  exact ⟨rfl, rfl⟩

theorem durW_of_wellFormed {cfg : Config} (h : cfg.wellFormed = true) : cfg.durW = 16 := by
  simp only [Config.wellFormed, Bool.and_eq_true, decide_eq_true_eq] at h
  obtain ⟨-, hw⟩ := h
  exact hw

/-- The event by which REPLAY delivers a command: what its FEED carries (R67). -/
def replayEvent (cfg : Config) (c : Command) : Color × BitVec 16 :=
  (c.color, BitVec.ofNat 16 (c.duration % 2 ^ cfg.durW))

theorem replayInstrs_eq_feeds (cfg : Config) (cs : List Command) :
    replayInstrs cfg cs = feeds (cs.map (replayEvent cfg)) := by
  rw [replayInstrs, feeds, List.map_map]
  rfl

/-- A duration that fits the port arrives whole (R55, R153). -/
theorem replayEvent_duration {cfg : Config} {c : Command} (hwf : cfg.wellFormed = true)
    (hd : c.duration < 2 ^ cfg.durW) : (replayEvent cfg c).2.toNat = c.duration := by
  rw [replayEvent, Nat.mod_eq_of_lt hd, BitVec.toNat_ofNat, Nat.mod_eq_of_lt (durW_of_wellFormed hwf ▸ hd)]

/-- Settles O47: each event has its command's colour and duration, and a duration kept is one held long enough. -/
theorem replayIsAConformingChannel : Obligations.ReplayIsAConformingChannel := by
  intro cfg cs hwf hd
  have hkept : (cs.map (replayEvent cfg)).map (fun e => (e.1, e.2.toNat)) = cs.map (fun c => (c.color, c.duration)) := by
    rw [List.map_map]
    exact List.map_congr_left fun c hc => congrArg (c.color, ·) (replayEvent_duration hwf (hd c hc))
  refine ⟨cs.map (replayEvent cfg), replayInstrs_eq_feeds cfg cs, hkept, ?_⟩
  rw [hkept, DriverConforms, List.forall₂_map_right_iff, List.forall₂_same]
  exact fun c _ => ⟨rfl, le_rfl⟩

end Sys2Proof.Machine

/-! The CRC of 40_crc8.md: its result as an operation, its linearity and injectivity over GF(2), the printed table, and
its reading as the remainder of a polynomial division. -/

namespace Sys2Proof.Machine

/-! ### The operation (R58, R73) -/

/-- The response of CRC8 carries the checksum in its low byte (R58). -/
@[simp] theorem extractLsb'_rspCrc_low (crc : Byte) : (rspCrc crc).extractLsb' 0 8 = crc := by
  rw [rspCrc, BitVec.extractLsb'_setWidth_of_le (by decide), BitVec.extractLsb'_eq_self]

/-- Above its low byte the response of CRC8 is 0 (R58). -/
@[simp] theorem extractLsb'_rspCrc_high (crc : Byte) : (rspCrc crc).extractLsb' 8 24 = 0 := by
  ext i hi
  simp [rspCrc]

/-- Settles O13: the response is the one with the checksum in its low byte. -/
theorem crc8AnswersTheChecksum : Obligations.Crc8AnswersTheChecksum := fun word index s =>
  ⟨rspCrc (crc8 word index), exec_crc8 word index s, extractLsb'_rspCrc_low _, extractLsb'_rspCrc_high _⟩

/-! ### Linearity (R71, R72, R74) -/

/-- Folding a byte in is linear in the remainder and the byte together. -/
theorem crc8Byte_xor (c₁ c₂ b₁ b₂ : Byte) :
    crc8Byte (c₁ ^^^ c₂) (b₁ ^^^ b₂) = crc8Byte c₁ b₁ ^^^ crc8Byte c₂ b₂ := by
  rw [crc8Byte, crc8Byte, crc8Byte, ← crc8Shifts_xor]
  congr 1
  ac_rfl

theorem crc8_eq_crc8Byte (word : Word) (index : Index) :
    crc8 word index = crc8Byte (crc8Byte (crc8Byte 0 (lowByte word)) (highByte word)) index := rfl

@[simp] theorem lowByte_xor (w₁ w₂ : Word) : lowByte (w₁ ^^^ w₂) = lowByte w₁ ^^^ lowByte w₂ :=
  BitVec.extractLsb'_xor

@[simp] theorem highByte_xor (w₁ w₂ : Word) : highByte (w₁ ^^^ w₂) = highByte w₁ ^^^ highByte w₂ :=
  BitVec.extractLsb'_xor

/-- Settles O30: each of the three folds is linear, from the initial remainder `0 = 0 ^^^ 0` on. -/
theorem crcIsLinear : Obligations.CrcIsLinear := by
  intro w₁ w₂ i₁ i₂
  have hinit : (0 : Byte) = 0 ^^^ 0 := rfl
  rw [crc8_eq_crc8Byte, lowByte_xor, highByte_xor, hinit, crc8Byte_xor, crc8Byte_xor, crc8Byte_xor]
  rfl

/-- An all-zero message has the checksum 0, as for every linear map (R76). -/
theorem crc8_zero : crc8 0 0 = 0 :=
  (crcIsLinear 0 0 0 0).trans BitVec.xor_self

/-! ### No two bytes fold to the same remainder -/

/-- A remainder is not shifted to 0: a tested bit that is 1 leaves bit 0 at 1, and one that is 0 loses nothing (R71). -/
theorem crc8Shift_eq_zero {r : Byte} (h : crc8Shift r = 0) : r = 0 := by
  unfold crc8Shift at h
  split at h
  · have hbit : (r <<< 1 ^^^ 0x07).getLsbD 0 = (0 : Byte).getLsbD 0 := congrArg (·.getLsbD 0) h
    simp at hbit
  · next hmsb =>
    have hlt : 2 * r.toNat < 2 ^ 8 := BitVec.msb_eq_false_iff_two_mul_lt.mp (Bool.eq_false_of_not_eq_true hmsb)
    bv_omega

theorem crc8Shift_injective : Function.Injective crc8Shift := by
  intro a b h
  have hzero : crc8Shift (a ^^^ b) = 0 := by rw [crc8Shift_xor, h, BitVec.xor_self]; rfl
  exact BitVec.xor_eq_zero_iff.mp (crc8Shift_eq_zero hzero)

theorem crc8Shifts_injective (n : Nat) : Function.Injective (crc8Shifts n) := by
  induction n with
  | zero => exact Function.injective_id
  | succ n ih => exact ih.comp crc8Shift_injective

theorem crc8Byte_inj_remainder {a b c : Byte} : crc8Byte a c = crc8Byte b c ↔ a = b :=
  (crc8Shifts_injective 8).eq_iff.trans (BitVec.xor_left_inj c)

theorem crc8Byte_inj_byte {a b c : Byte} : crc8Byte c a = crc8Byte c b ↔ a = b :=
  (crc8Shifts_injective 8).eq_iff.trans (BitVec.xor_right_inj c)

/-! ### The printed table (R75) -/

/-- The printed table lists eight shifts of 0, 1, ..., 255. -/
theorem crcTable_eq_map : crcTable = (List.finRange 256).map (fun x => crc8Shifts 8 (BitVec.ofFin x)) := by
  decide +kernel

/-- Settles O31: the look-up reads eight shifts of `c ^^^ b`, and different bytes have different shifts. -/
theorem crcTableForm : Obligations.CrcTableForm := by
  rw [Obligations.CrcTableForm, crcTable_eq_map]
  refine ⟨fun c b => ?_, by rw [List.length_map, List.length_finRange], ?_⟩
  · have hlt : (c ^^^ b).toNat < (List.finRange 256).length := by simpa only [List.length_finRange] using (c ^^^ b).isLt
    rw [List.getElem?_map, List.getElem?_eq_getElem hlt, List.getElem_finRange]
    rfl
  · exact (List.nodup_finRange 256).map fun a b h => BitVec.ofFin.inj (crc8Shifts_injective 8 h)

/-! ### Single-bit flips (R76) -/

/-- Flipping one bit of a word flips one bit of its low byte and none of its high byte, or the other way round. -/
theorem bytes_oneBit {k : Nat} (hk : k < 16) :
    lowByte (1 <<< k) ≠ 0#8 ∧ highByte (1 <<< k) = 0#8 ∨ lowByte (1 <<< k) = 0#8 ∧ highByte (1 <<< k) ≠ 0#8 := by
  revert k
  decide

theorem oneBit_ne_zero {k : Nat} (hk : k < 8) : (1 <<< k : Index) ≠ 0 := by
  revert k
  decide

theorem crc8_flip_word_ne (word : Word) (index : Index) {k : Nat} (hk : k < 16) :
    crc8 (word ^^^ (1 <<< k)) index ≠ crc8 word index := by
  rw [crc8_eq_crc8Byte, crc8_eq_crc8Byte, lowByte_xor, highByte_xor, Ne, crc8Byte_inj_remainder]
  rcases bytes_oneBit hk with ⟨hlow, hhigh⟩ | ⟨hlow, hhigh⟩
  · rw [hhigh, BitVec.xor_zero, crc8Byte_inj_remainder, crc8Byte_inj_byte]
    exact mt xor_left_eq_self_iff.mp hlow
  · rw [hlow, BitVec.xor_zero, crc8Byte_inj_byte]
    exact mt xor_left_eq_self_iff.mp hhigh

theorem crc8_flip_index_ne (word : Word) (index : Index) {k : Nat} (hk : k < 8) :
    crc8 word (index ^^^ (1 <<< k)) ≠ crc8 word index := by
  rw [crc8_eq_crc8Byte, crc8_eq_crc8Byte, Ne, crc8Byte_inj_byte]
  exact mt xor_left_eq_self_iff.mp (oneBit_ne_zero hk)

/-- Settles O32: a flip changes one of the three bytes folded in, and every fold tells different inputs apart. -/
theorem crcDetectsSingleBitFlips : Obligations.CrcDetectsSingleBitFlips :=
  ⟨fun word index => ⟨fun _ hk => crc8_flip_word_ne word index hk, fun _ hk => crc8_flip_index_ne word index hk⟩,
    (frameValid_iff 0).mpr crc8_zero.symm⟩

/-! ### Bit vectors as polynomials over GF(2) (R74) -/

section Polynomials
open Polynomial

theorem polyOf_coeff {n : Nat} (v : BitVec n) (k : Nat) : (polyOf v).coeff k = if v.getLsbD k then 1 else 0 := by
  simp only [polyOf, finsetSum_coeff, apply_ite (coeff · k), coeff_X_pow, coeff_zero]
  rw [Finset.sum_eq_single k (fun i _ hik => by simp [hik.symm])]
  · rw [if_pos rfl]
  · intro hk
    simp [BitVec.getLsbD_of_ge v k (by simpa using hk)]

theorem polyOf_degree_lt {n : Nat} (v : BitVec n) : (polyOf v).degree < n := by
  rw [degree_lt_iff_coeff_zero]
  intro k hk
  rw [polyOf_coeff, BitVec.getLsbD_of_ge v k hk]
  rfl

theorem polyOf_eq_zero {n : Nat} {v : BitVec n} (h : polyOf v = 0) : v = 0 := by
  apply BitVec.eq_of_getLsbD_eq
  intro k _
  have hk : (polyOf v).coeff k = 0 := by rw [h, coeff_zero]
  simpa [polyOf_coeff] using hk

/-- Addition over GF(2) is exclusive or, bit by bit. -/
theorem polyOf_xor {n : Nat} (a b : BitVec n) : polyOf (a ^^^ b) = polyOf a + polyOf b := by
  ext k
  rw [coeff_add, polyOf_coeff, polyOf_coeff, polyOf_coeff, BitVec.getLsbD_xor]
  cases a.getLsbD k <;> cases b.getLsbD k <;> decide

theorem polyOf_append {n m : Nat} (a : BitVec n) (b : BitVec m) : polyOf (a ++ b) = polyOf a * X ^ m + polyOf b := by
  ext k
  rw [coeff_add, coeff_mul_X_pow', polyOf_coeff, polyOf_coeff, polyOf_coeff, BitVec.getLsbD_append]
  by_cases hk : k < m
  · simp [hk]
  · simp [hk, BitVec.getLsbD_of_ge b k (by omega)]

theorem polyOf_sub {n : Nat} (a b : BitVec n) : polyOf a - polyOf b = polyOf (a ^^^ b) := by
  rw [polyOf_xor, CharTwo.sub_eq_add]

/-- Shifted left, a byte is multiplied by `x`, but for the bit it loses. -/
theorem polyOf_mul_X (r : Byte) : polyOf r * X = polyOf (r <<< 1) + if r.msb then X ^ 8 else 0 := by
  ext k
  rw [coeff_add, polyOf_coeff, BitVec.getLsbD_shiftLeft, apply_ite (coeff · k), coeff_X_pow, coeff_zero,
    BitVec.msb_eq_getLsbD_last]
  cases k with
  | zero => simp
  | succ k =>
    rw [coeff_mul_X, polyOf_coeff]
    rcases lt_trichotomy k 7 with hk | rfl | hk
    · simp [show k + 1 < 8 by omega, hk.ne]
    · simp
    · simp [BitVec.getLsbD_of_ge r k hk, hk.ne']

theorem polyOf_seven : polyOf (0x07 : Byte) = X ^ 2 + X + 1 := by
  simp [polyOf, Finset.sum_range_succ]
  ring

theorem crcGenerator_eq : crcGenerator = X ^ 8 + polyOf (0x07 : Byte) := by
  rw [crcGenerator, polyOf_seven]
  ring

/-! ### Residues modulo `G` -/

/-- The polynomial of a bit vector modulo `G`. -/
noncomputable def crcResidue {n : Nat} (v : BitVec n) : AdjoinRoot crcGenerator := AdjoinRoot.mk crcGenerator (polyOf v)

theorem crcGenerator_degree : crcGenerator.degree = 8 := by
  unfold crcGenerator
  compute_degree!

theorem crcResidue_xor {n : Nat} (a b : BitVec n) : crcResidue (a ^^^ b) = crcResidue a + crcResidue b := by
  rw [crcResidue, polyOf_xor, map_add]; rfl

theorem crcResidue_append {n m : Nat} (a : BitVec n) (b : BitVec m) :
    crcResidue (a ++ b) = crcResidue a * AdjoinRoot.root crcGenerator ^ m + crcResidue b := by
  rw [crcResidue, polyOf_append, map_add, map_mul, map_pow, AdjoinRoot.mk_X]; rfl

/-- No two bytes are congruent: the degree of `G` is 8. -/
theorem crcResidue_byte_injective : Function.Injective (crcResidue : Byte → AdjoinRoot crcGenerator) := by
  intro a b h
  have hdvd : crcGenerator ∣ polyOf (a ^^^ b) := by
    rw [← polyOf_sub]
    exact AdjoinRoot.mk_eq_mk.mp h
  have hdeg : (polyOf (a ^^^ b)).degree < crcGenerator.degree := crcGenerator_degree ▸ polyOf_degree_lt _
  exact BitVec.xor_eq_zero_iff.mp (polyOf_eq_zero (eq_zero_of_dvd_of_degree_lt hdvd hdeg))

/-- One shift of the remainder multiplies by `x` modulo `G`: the bit it drops stands for `x^8`, and 0x07 for
`x^8 - G` (R71). -/
theorem crcResidue_crc8Shift (r : Byte) : crcResidue (crc8Shift r) = crcResidue r * AdjoinRoot.root crcGenerator := by
  have hG : AdjoinRoot.mk crcGenerator (X ^ 8) = crcResidue (0x07 : Byte) := by
    rw [crcResidue, AdjoinRoot.mk_eq_mk, CharTwo.sub_eq_add, ← crcGenerator_eq]
  rw [crcResidue, crcResidue, ← AdjoinRoot.mk_X, ← map_mul, polyOf_mul_X, map_add, crc8Shift]
  split
  · rw [polyOf_xor, map_add, hG]
    rfl
  · rw [map_zero, add_zero]

theorem crcResidue_crc8Shifts (n : Nat) (r : Byte) :
    crcResidue (crc8Shifts n r) = crcResidue r * AdjoinRoot.root crcGenerator ^ n := by
  induction n generalizing r with
  | zero => rw [pow_zero, mul_one]; rfl
  | succ n ih => rw [crc8Shifts, ih, crcResidue_crc8Shift, pow_succ', mul_assoc]

theorem crcResidue_crc8Byte (c b : Byte) :
    crcResidue (crc8Byte c b) = (crcResidue c + crcResidue b) * AdjoinRoot.root crcGenerator ^ 8 := by
  rw [crc8Byte, crcResidue_crc8Shifts, crcResidue_xor]

/-- The checksum is the message times `x^8` modulo `G` (R74). -/
theorem crcResidue_crc8 (word : Word) (index : Index) :
    crcResidue (crc8 word index) = crcResidue (crcMessage word index) * AdjoinRoot.root crcGenerator ^ 8 := by
  have hzero : crcResidue (0 : Byte) = 0 := by simp [crcResidue, polyOf]
  rw [crc8_eq_crc8Byte, crcMessage, crcResidue_append, crcResidue_append]
  rw [crcResidue_crc8Byte, crcResidue_crc8Byte, crcResidue_crc8Byte, hzero, zero_add]

/-- A message with a checksum appended is a multiple of `G` exactly when the checksum is the message's (R74). -/
theorem crcGenerator_dvd_iff (word : Word) (index : Index) (c : Byte) :
    crcGenerator ∣ polyOf (crcMessage word index) * X ^ 8 + polyOf c ↔ c = crc8 word index := by
  rw [← crcResidue_byte_injective.eq_iff, crcResidue_crc8, ← CharTwo.sub_eq_add, ← AdjoinRoot.mk_eq_mk, map_mul,
    map_pow, AdjoinRoot.mk_X]
  exact eq_comm

end Polynomials

/-- Settles O29: both halves say which checksum completes a message to a multiple of `G`. -/
theorem crcIsThePolynomialRemainder : Obligations.CrcIsThePolynomialRemainder := by
  refine ⟨fun word index => (crcGenerator_dvd_iff word index _).mpr rfl, fun w => ?_⟩
  rw [frameValid_iff, polyOf_append, crcGenerator_dvd_iff]

end Sys2Proof.Machine

/-! The codec of 41_codec.md: its two maps in the numbers of the colours, the clamp, the round trip, and the results
of SYMF and SYMI. -/

namespace Sys2Proof.Machine

/-! ### The forward map in numbers (R50, R89) -/

theorem colorCode_injective : Function.Injective colorCode := by
  intro a b h
  have hdec : colorOfCode (colorCode a) = colorOfCode (colorCode b) := congrArg colorOfCode h
  simpa using hdec

theorem colorCode_toNat_inj {a b : Color} : (colorCode a).toNat = (colorCode b).toNat ↔ a = b :=
  BitVec.toNat_inj.trans colorCode_injective.eq_iff

/-- The position of `curr` among the colours other than `prev` is its number, less one when `prev` stands before it. -/
theorem symbolForTransition_toNat_of_ne {prev curr : Color} (h : curr ≠ prev) :
    (symbolForTransition prev curr).toNat =
      if (colorCode curr).toNat < (colorCode prev).toNat then (colorCode curr).toNat
      else (colorCode curr).toNat - 1 := by
  revert h
  cases prev <;> cases curr <;> decide

/-- Off the held colour the forward map tells colours apart: by the numbers, it only closes the gap `prev` leaves. -/
theorem symbolForTransition_inj_of_ne {prev a b : Color} (ha : a ≠ prev) (hb : b ≠ prev)
    (h : symbolForTransition prev a = symbolForTransition prev b) : a = b := by
  have hnat := congrArg BitVec.toNat h
  rw [symbolForTransition_toNat_of_ne ha, symbolForTransition_toNat_of_ne hb] at hnat
  rw [Ne, ← colorCode_toNat_inj] at ha hb
  rw [← colorCode_toNat_inj]
  split at hnat <;> split at hnat <;> omega

/-! ### The clamp (R84) -/

theorem toNat_clampSymbol (v : Nat) : (clampSymbol v).toNat = min v 3 := by
  rw [clampSymbol, BitVec.toNat_ofNat, Nat.mod_eq_of_lt (by omega)]

/-- A number and the symbol it is clamped to are looked up alike, so what holds of symbols holds of every number. -/
theorem colorForSymbol_clampSymbol (prev : Color) (v : Nat) :
    colorForSymbol prev (clampSymbol v).toNat = colorForSymbol prev v :=
  colorForSymbol_of_clamp_eq (clampSymbol_toNat _)

theorem colorForSymbol_of_three_le (prev : Color) {v : Nat} (h : 3 ≤ v) :
    colorForSymbol prev v = colorForSymbol prev 3 := by
  refine colorForSymbol_of_clamp_eq (BitVec.eq_of_toNat_eq ?_)
  rw [toNat_clampSymbol, toNat_clampSymbol, Nat.min_eq_right h, Nat.min_self]

/-- Symbol 3 is the last colour of the alphabet other than `prev` (R83). -/
theorem colorForSymbol_three (prev : Color) : colorForSymbol prev 3 = if prev = .blue then .green else .blue := by
  cases prev <;> decide

/-- Symbol 0 is the neutral partner, the first colour of the alphabet other than `prev` (R80, R83). -/
theorem colorForSymbol_zero (prev : Color) : colorForSymbol prev 0 = if prev = .off then .white else .off := by
  cases prev <;> decide

/-- The inverse never holds the colour, whatever number it is asked for (R86). -/
theorem colorForSymbol_ne_prev (prev : Color) (v : Nat) : colorForSymbol prev v ≠ prev :=
  colorForSymbol_clampSymbol prev v ▸ colorForSymbol_ne prev (clampSymbol v)

/-- The answer of the inverse has the clamped number as its symbol (R82, R84). -/
theorem symbolForTransition_colorForSymbol_eq_clamp (prev : Color) (v : Nat) :
    symbolForTransition prev (colorForSymbol prev v) = clampSymbol v := by
  rw [← colorForSymbol_clampSymbol, symbolForTransition_colorForSymbol]

/-- Settles O36: below the clamp and above it the inverse answers another colour, and the clamp makes 3 of 3 or more. -/
theorem inverseClampsAndNeverHolds : Obligations.InverseClampsAndNeverHolds := fun prev v =>
  ⟨colorForSymbol_ne_prev prev v, fun h =>
    ⟨colorForSymbol_of_three_le prev h, (colorForSymbol_of_three_le prev h).trans (colorForSymbol_three prev)⟩⟩

/-! ### The inverse map in numbers (R89) -/

/-- The forward map of the inverse's answer is the clamped number: solved for the answer, which is not `prev`. -/
theorem colorCode_colorForSymbol_toNat (prev : Color) (v : Nat) :
    (colorCode (colorForSymbol prev v)).toNat =
      if min v 3 < (colorCode prev).toNat then min v 3 else min v 3 + 1 := by
  have hne := colorForSymbol_ne_prev prev v
  have hsym := symbolForTransition_toNat_of_ne hne
  rw [symbolForTransition_colorForSymbol_eq_clamp, toNat_clampSymbol] at hsym
  rw [Ne, ← colorCode_toNat_inj] at hne
  split at hsym <;> split <;> omega

/-- Settles O34: the forward map by its table, and the inverse as what solves it. -/
theorem codecArithmeticForm : Obligations.CodecArithmeticForm := by
  refine ⟨fun prev curr => ?_, colorCode_colorForSymbol_toNat⟩
  split
  case isTrue h => rw [h, symbolForTransition_self]; rfl
  case isFalse h => exact symbolForTransition_toNat_of_ne h

/-! ### The round trip (R85) -/

/-- A colour other than `prev` comes back: the inverse's answer has its symbol, and no other colour has. -/
theorem colorForSymbol_symbolForTransition {prev curr : Color} (h : curr ≠ prev) :
    colorForSymbol prev (symbolForTransition prev curr).toNat = curr :=
  symbolForTransition_inj_of_ne (colorForSymbol_ne_prev prev _) h (symbolForTransition_colorForSymbol prev _)

theorem colorForSymbol_symbolForTransition_self (prev : Color) :
    colorForSymbol prev (symbolForTransition prev prev).toNat = if prev = .off then .white else .off := by
  rw [symbolForTransition_self]
  exact colorForSymbol_zero prev

/-- Every symbol has exactly one colour other than `prev`, the one the inverse answers. -/
theorem existsUnique_symbolForTransition_eq (prev : Color) (s : Symbol) :
    ∃! c : Color, c ≠ prev ∧ symbolForTransition prev c = s := by
  refine ⟨colorForSymbol prev s.toNat, ⟨colorForSymbol_ne prev s, symbolForTransition_colorForSymbol prev s⟩, ?_⟩
  rintro c ⟨hne, rfl⟩
  exact (colorForSymbol_symbolForTransition hne).symm

/-- The held colour and its neutral partner share symbol 0. -/
theorem not_injective_symbolForTransition (prev : Color) : ¬ Function.Injective (symbolForTransition prev) := by
  intro hinj
  have hshared : symbolForTransition prev (colorForSymbol prev 0) = symbolForTransition prev prev :=
    (symbolForTransition_colorForSymbol prev 0).trans (symbolForTransition_self prev).symm
  exact colorForSymbol_ne_prev prev 0 (hinj hshared)

/-- Settles O35: the inverse answers the one colour other than `prev` that has the symbol, so only `prev` is lost. -/
theorem codecRoundTrip : Obligations.CodecRoundTrip :=
  ⟨symbolForTransition_colorForSymbol,
    fun prev _ => ⟨fun h => h ▸ colorForSymbol_ne_prev prev _, colorForSymbol_symbolForTransition⟩,
    colorForSymbol_symbolForTransition_self, existsUnique_symbolForTransition_eq, not_injective_symbolForTransition⟩

/-! ### The operations (R59, R60, R87, R88) -/

/-- Above the bits of a value extended by zeros there are zeros. -/
theorem extractLsb'_zeroExtend_high {n : Nat} (v : BitVec n) (w m : Nat) : (v.zeroExtend w).extractLsb' n m = 0 := by
  ext i hi
  simp

/-- The response of SYMF carries the symbol in its low two bits (R59). -/
@[simp] theorem extractLsb'_rspSymbol_low (s : Symbol) : (rspSymbol s).extractLsb' 0 2 = s := by
  rw [rspSymbol, BitVec.extractLsb'_setWidth_of_le (by decide), BitVec.extractLsb'_eq_self]

/-- The response of SYMI carries the colour's code in its low three bits (R60). -/
@[simp] theorem extractLsb'_rspColor_low (c : Color) : (rspColor c).extractLsb' 0 3 = colorCode c := by
  rw [rspColor, BitVec.extractLsb'_setWidth_of_le (by decide), BitVec.extractLsb'_eq_self]

/-- Settles O14: the response is the one with the symbol in its low bits, and a held colour's symbol is 0. -/
theorem symfAnswersTheSymbol : Obligations.SymfAnswersTheSymbol := by
  intro prev curr s
  refine ⟨rspSymbol (symbolForTransition prev curr), exec_symf prev curr s, extractLsb'_rspSymbol_low _,
    extractLsb'_zeroExtend_high _ 32 30, ?_⟩
  rintro rfl
  rw [symbolForTransition_self]
  rfl

/-- Settles O15: the response is the one with the colour's code in its low bits, from 3 on that of 3's colour. -/
theorem symiAnswersTheColorCode : Obligations.SymiAnswersTheColorCode := by
  intro prev v s
  refine ⟨rspColor (colorForSymbol prev v.toNat), exec_symi prev v s, extractLsb'_rspColor_low _,
    extractLsb'_zeroExtend_high _ 32 29, fun h => ?_⟩
  rw [extractLsb'_rspColor_low, colorForSymbol_of_three_le prev h]

end Sys2Proof.Machine

/-! The serializer of 42_serializer.md: TXBEGIN, the frame one ENCW emits, and a run of ENCWs, whose colours are one
chain over the symbols of all its frames. -/

namespace Sys2Proof.Machine

/-- Settles O16: the two named updates of TXBEGIN are the record the statement writes out (R90). -/
theorem txbeginSetsTxPrevOff : Obligations.TxbeginSetsTxPrevOff := exec_txbegin

/-! ### The chain of colours (R92) -/

/-- Each colour of a chain carries the symbol of its place against the colour before it, the first against `p`. -/
theorem colorChain_getElem? (p d : Color) (vs : List Symbol) (j : Nat) :
    (colorChain p vs)[j]? = vs[j]?.map fun v => colorForSymbol ((p :: colorChain p vs).getD j d) v.toNat := by
  induction vs generalizing p j with
  | nil => rfl
  | cons v vs ih =>
    cases j with
    | zero => rfl
    | succ j => exact ih _ j

/-- A chain over two lists of symbols goes on from the last colour of the first (R93). -/
theorem colorChain_append (p : Color) (vs ws : List Symbol) :
    colorChain p (vs ++ ws) = colorChain p vs ++ colorChain (lastColor p (colorChain p vs)) ws := by
  induction vs generalizing p with
  | nil => rfl
  | cons v vs ih => simp [colorChain, ih]

theorem lastColor_append (p : Color) (as bs : List Color) :
    lastColor p (as ++ bs) = lastColor (lastColor p as) bs := by
  induction as generalizing p with
  | nil => rfl
  | cons a as ih => simp [ih]

/-- Every colour of a chain differs from the one before it, since the inverse never holds the colour (R86, R95). -/
theorem isChain_ne_colorChain (p : Color) (vs : List Symbol) : List.IsChain (· ≠ ·) (p :: colorChain p vs) := by
  induction vs generalizing p with
  | nil => exact .singleton p
  | cons v vs ih => exact (ih _).cons_cons (colorForSymbol_ne p v).symm

@[simp] theorem frameSymbols_length (frame : Window) : (frameSymbols frame).length = 16 := by
  simp [frameSymbols]

theorem frameSymbols_getElem? (frame : Window) {j : Nat} (h : j < 16) :
    (frameSymbols frame)[j]? = some (frameSymbol frame j) := by
  simp [frameSymbols, h]

/-- The colour of place `j` carries symbol `j` of the packet's frame against the colour before it (R92). -/
theorem serialize_getElem? (p d : Color) (index : Index) (word : Word) {j : Nat} (h : j < 16) :
    (serialize p index word)[j]? = some
      (colorForSymbol ((p :: serialize p index word).getD j d) (frameSymbol (packetFrame index word) j).toNat) := by
  rw [serialize, colorChain_getElem? p d, frameSymbols_getElem? _ h, Option.map_some]

/-- ENCW's update of the state, for any colours: their commands, the last of them in `tx_prev`, an empty response. -/
theorem State.sendColors_eq (s : State) (colors : List Color) :
    ((s.emitCommands (colors.map (commandOf s.cfg))).setTxPrev (lastColor s.txPrev colors)).respond .ok rspNone =
      { s with
        txOut := s.txOut ++ colors.map (fun c => { color := c, duration := s.cfg.duration })
        txPrev := colors.getLastD s.txPrev
        responses := s.responses ++ [{ status := .ok, rsp := 0 }] } := rfl

/-- Settles O17: the 16 colours are those of `serialize`. -/
theorem encwEmitsTheFrame : Obligations.EncwEmitsTheFrame := by
  intro index word s
  refine ⟨serialize s.txPrev index word, ?_, serialize_length _ _ _, fun j hj => ?_⟩
  · rw [exec_encw, State.sendColors_eq]
  · exact serialize_getElem? s.txPrev .off index word hj

/-! ### A run of ENCWs (R93) -/

/-- The symbols of the packets' frames, in the order they are sent. -/
def packetsSymbols (packets : List (Index × Word)) : List Symbol :=
  packets.flatMap fun p => frameSymbols (packetFrame p.1 p.2)

@[simp] theorem packetsSymbols_length (packets : List (Index × Word)) :
    (packetsSymbols packets).length = 16 * packets.length := by
  simp [packetsSymbols, mul_comm]

/-- The colours of the packets, sent one after the other from `tx_prev = p`: one chain. -/
def serializeAll (p : Color) (packets : List (Index × Word)) : List Color := colorChain p (packetsSymbols packets)

@[simp] theorem serializeAll_nil (p : Color) : serializeAll p [] = [] := rfl

theorem serializeAll_cons (p : Color) (q : Index × Word) (packets : List (Index × Word)) :
    serializeAll p (q :: packets)
      = serialize p q.1 q.2 ++ serializeAll (lastColor p (serialize p q.1 q.2)) packets :=
  colorChain_append p (frameSymbols (packetFrame q.1 q.2)) (packetsSymbols packets)

/-- The state after one ENCW per packet: the commands of the one chain, its last colour in `tx_prev`, and one empty
response each. -/
def State.encodeAll (packets : List (Index × Word)) (s : State) : State :=
  { s with
    txOut := s.txOut ++ (serializeAll s.txPrev packets).map (commandOf s.cfg)
    txPrev := lastColor s.txPrev (serializeAll s.txPrev packets)
    responses := s.responses ++ List.replicate packets.length ⟨.ok, rspNone⟩ }

/-- ENCWs always complete, so running them is `State.encodeAll` (R91, R93). -/
theorem runInstrs_encws (packets : List (Index × Word)) (s : State) :
    runInstrs (encws packets) s = .next (s.encodeAll packets) := by
  induction packets generalizing s with
  | nil => simp [encws, runInstrs, State.encodeAll]
  | cons q packets ih =>
    rw [encws, List.map_cons, runInstrs, exec_encw]
    refine (ih _).trans (congrArg Host.Outcome.next ?_)
    simp [State.encodeAll, serializeAll_cons, lastColor_append, List.replicate_succ, State.emitCommands,
      State.setTxPrev, State.respond]

/-- The colours of the commands are the colours they were made of (R94). -/
@[simp] theorem map_color_map_commandOf (cfg : Config) (colors : List Color) :
    (colors.map (commandOf cfg)).map Command.color = colors := by
  rw [List.map_map]
  exact List.map_id _

/-- Settles O39: the commands of the run are those of one chain of colours over all its frames' symbols. -/
theorem everyCommandIsAColorChange : Obligations.EveryCommandIsAColorChange := by
  intro packets s
  refine ⟨s.encodeAll packets, (serializeAll s.txPrev packets).map (commandOf s.cfg), runInstrs_encws packets s, rfl,
    ?_, ?_, ?_, ?_⟩
  · simp [serializeAll]
  · exact List.forall_mem_map.mpr fun _ _ => rfl
  · rw [map_color_map_commandOf]
    exact isChain_ne_colorChain _ _
  · rw [map_color_map_commandOf]
    rfl

end Sys2Proof.Machine

/-! The receiver of 43_receiver.md: its two operations in full, events that change nothing, what a window keeps of the
symbols shifted into it, one clean frame, and the count of the valid windows. -/

namespace Sys2Proof.Machine

/-! ### The operations (R100, R109) -/

/-- Settles O18: the three things an event can do are chains of named updates, which the statement writes out. -/
theorem feedTakesItsSixSteps : Obligations.FeedTakesItsSixSteps := by
  intro color d s w index word
  rw [exec_feed]
  rcases feedEvent_cases color d.toNat s with ⟨hi, e⟩ | ⟨hd, hc, hv, e⟩ | ⟨hd, hc, hv, e⟩
  · rw [e, if_pos hi]
    rfl
  · have hbad : ¬ w.extractLsb' 0 8 = crc8 word index :=
      (frameValid_iff w).not.mp (Bool.eq_false_iff.mp hv)
    rw [e, if_neg (not_or.mpr ⟨hd.not_gt, hc⟩), if_neg hbad]
    rfl
  · have hgood : w.extractLsb' 0 8 = crc8 word index := (frameValid_iff w).mp hv
    rw [e, if_neg (not_or.mpr ⟨hd.not_gt, hc⟩), if_pos hgood]
    rfl

theorem State.readStore_of_lookup_none {s : State} {index : Index} (h : Memory.lookup s.store index.toNat = none) :
    s.readStore index = s.cfg.storeInit index := by
  rw [State.readStore, Memory.read_eq_getD, h, Option.getD_none]

/-- Settles O19: the response is the one with the entry in its low half. -/
theorem rdstoreAnswersTheEntry : Obligations.RdstoreAnswersTheEntry := by
  intro index s
  refine ⟨rspWord (s.readStore index), exec_rdstore index s, extractLsb'_rspWord _,
    extractLsb'_zeroExtend_high _ 32 16, fun h => ?_⟩
  rw [extractLsb'_rspWord, State.readStore_of_lookup_none h]

/-! ### Ignored events (R101, R111) -/

/-- An ignored event leaves the receiver as it is, so the next one is judged alike: only the responses grow. -/
theorem feedAll_of_ignored {events : List (Color × BitVec 16)} {s : State}
    (h : ∀ e ∈ events, eventIgnored s.cfg s.rxPrev e.1 e.2.toNat = true) :
    feedAll events s = { s with responses := s.responses ++ List.replicate events.length ⟨.ok, rspNone⟩ } := by
  induction events generalizing s with
  | nil => simp
  | cons e es ih =>
    obtain ⟨he, hes⟩ := List.forall_mem_cons.mp h
    rw [feedAll_cons, feedEvent_of_ignored he, ih (s := s.respond .ok rspNone) hes]
    simp [State.respond, List.replicate_succ]

/-- Settles O40: the FEEDs of the list are all ignored. -/
theorem ignoredEventsChangeNothing : Obligations.IgnoredEventsChangeNothing := by
  intro events s h
  rw [runInstrs_feeds, feedAll_of_ignored fun e he => (eventIgnored_iff _ _ _ _).mpr (h e he)]
  rfl

/-! ### What the window keeps (R103, R108) -/

/-- Seen above its low two bits, shifting a symbol in moves the window up by two. -/
theorem field_shiftIn_above (w : Window) (s : Symbol) {lo n : Nat} (h : lo + n ≤ 30) :
    field (shiftIn w s) (lo + 2) n = field w lo n := by
  apply BitVec.eq_of_getLsbD_eq
  intro i hi
  have hs : s.getLsbD (lo + 2 + i) = false := BitVec.getLsbD_of_ge _ _ (by omega)
  rw [field, field, shiftIn, BitVec.getLsbD_extractLsb', BitVec.getLsbD_extractLsb', BitVec.getLsbD_or,
    BitVec.getLsbD_shiftLeft, show lo + 2 + i - 2 = lo + i by omega]
  simp [hs, show lo + 2 + i < 32 by omega, show ¬ lo + 2 + i < 2 by omega]

/-- Each symbol shifted in moves what the window held up by two bits, until it is lost at the top. -/
theorem field_foldl_shiftIn (symbols : List Symbol) (w : Window) {lo n : Nat}
    (h : lo + 2 * symbols.length + n ≤ 32) :
    field (symbols.foldl shiftIn w) (lo + 2 * symbols.length) n = field w lo n := by
  induction symbols generalizing w lo with
  | nil => rfl
  | cons v vs ih =>
    rw [List.length_cons] at h
    rw [List.foldl_cons, List.length_cons, show lo + 2 * (vs.length + 1) = lo + 2 + 2 * vs.length by omega,
      ih _ (by omega), field_shiftIn_above w v (by omega)]

/-- Windows that agree in their low `n` bits are equal once symbols have pushed all the other bits out. -/
theorem foldl_shiftIn_eq_of_field_eq {symbols : List Symbol} {w w' : Window} {n : Nat}
    (hn : n + 2 * symbols.length = 32) (h : field w 0 n = field w' 0 n) :
    symbols.foldl shiftIn w = symbols.foldl shiftIn w' := by
  induction symbols generalizing w w' n with
  | nil =>
    obtain rfl : n = 32 := hn
    rwa [field_full, field_full] at h
  | cons v vs ih =>
    rw [List.length_cons] at hn
    refine ih (n := n + 2) (by omega) ?_
    rw [field_shiftIn w v (by omega), field_shiftIn w' v (by omega), h]

@[simp] theorem receivedSymbols_length (p : Color) (cs : List Color) : (receivedSymbols p cs).length = cs.length := by
  induction cs generalizing p with
  | nil => rfl
  | cons c cs ih => simp [receivedSymbols, ih]

/-- Settles O42: 15 symbols move the low two bits to the top, and 16 leave nothing of the window before them. -/
theorem windowForgetsAfterSixteenEvents : Obligations.WindowForgetsAfterSixteenEvents := by
  refine ⟨fun s events hlen hacc => ⟨_, runInstrs_feeds events s, ?_⟩,
    fun s w events hlen hacc => ⟨_, _, runInstrs_feeds events s, runInstrs_feeds events _, ?_⟩⟩
  · have hsym : (receivedSymbols s.rxPrev (events.map Prod.fst)).length = 15 := by simp [hlen]
    have hmoved := field_foldl_shiftIn _ s.rxWindow (lo := 0) (n := 2) (by rw [hsym])
    rw [hsym] at hmoved
    rw [feedAll_rxWindow hacc]
    exact hmoved
  · have hsym : (receivedSymbols s.rxPrev (events.map Prod.fst)).length = 16 := by simp [hlen]
    rw [feedAll_rxWindow hacc, feedAll_rxWindow (s := { s with rxWindow := w }) hacc]
    exact foldl_shiftIn_eq_of_field_eq (n := 0) (by rw [hsym]) (Subsingleton.elim _ _)

/-! ### One clean frame (R110) -/

/-- Accepted events end in one accepted event of the receiver that those before it leave. -/
theorem feedAll_eq_feedEvent_of_accepted {events : List (Color × BitVec 16)} {s : State}
    (h : AllAccepted s.cfg s.rxPrev events) (hne : events ≠ []) :
    ∃ (color : Color) (d : Nat) (u : State), eventIgnored u.cfg u.rxPrev color d = false
      ∧ feedAll events s = feedEvent color d u := by
  obtain ⟨es, e, rfl⟩ := events.eq_nil_or_concat'.resolve_left hne
  obtain ⟨hes, he⟩ := (allAccepted_append _ _ _ _).mp h
  obtain ⟨hacc, -⟩ := (allAccepted_cons _ _ _ _).mp he
  exact ⟨e.1, e.2.toNat, feedAll es s, by rwa [feedAll_cfg, feedAll_rxPrev hes], feedAll_append es [e] s⟩

/-- The last of a sequence of accepted events stores the window's word if it leaves the window valid (R105). -/
theorem feedAll_readStore_of_last_valid {events : List (Color × BitVec 16)} {s : State}
    (h : AllAccepted s.cfg s.rxPrev events) (hne : events ≠ [])
    (hv : frameValid (feedAll events s).rxWindow = true) :
    (feedAll events s).readStore (windowIndex (feedAll events s).rxWindow)
      = windowWord (feedAll events s).rxWindow := by
  obtain ⟨color, d, u, hacc, e⟩ := feedAll_eq_feedEvent_of_accepted h hne
  rw [e, feedEvent_rxWindow_of_accepted hacc] at hv ⊢
  simp [feedEvent_of_valid hacc hv]

/-- The checksum that completes an index and a word to a valid frame is their CRC, and no other (R105). -/
theorem frameValid_frameOf_iff (index : Index) (word : Word) (c : Byte) :
    frameValid (frameOf index word c) = true ↔ c = crc8 word index := by
  rw [frameValid_iff, windowChecksum_frameOf, windowWord_frameOf, windowIndex_frameOf]

theorem frameValid_packetFrame (index : Index) (word : Word) : frameValid (packetFrame index word) = true :=
  (frameValid_frameOf_iff index word _).mpr rfl

theorem windowPacket_packetFrame (index : Index) (word : Word) :
    windowPacket (packetFrame index word) = { index := index, word := word } := by
  rw [windowPacket, packetFrame, windowIndex_frameOf, windowWord_frameOf]

section CleanFrame
variable {events : List (Color × BitVec 16)} {s : State} {index : Index} {word : Word}

/-- Events with the colours of `serialize(rx_prev, index, word)`, each long enough, are all accepted: no colour of a
chain is held (R86, R101). -/
theorem allAccepted_of_serialize (hc : events.map Prod.fst = serialize s.rxPrev index word)
    (hd : ∀ e ∈ events, s.cfg.minDuration ≤ e.2.toNat) : AllAccepted s.cfg s.rxPrev events :=
  ⟨hd, hc ▸ isChain_ne_colorChain s.rxPrev _⟩

/-- They leave the packet's frame in the window, whatever it held (R110). -/
theorem feedAll_rxWindow_of_serialize (hc : events.map Prod.fst = serialize s.rxPrev index word)
    (hd : ∀ e ∈ events, s.cfg.minDuration ≤ e.2.toNat) : (feedAll events s).rxWindow = packetFrame index word := by
  obtain ⟨-, hshift⟩ := shiftingSixteenSymbolsGivesTheFrame
  rw [feedAll_rxWindow (allAccepted_of_serialize hc hd), hc, serialize, receivedSymbols_colorChain, hshift]

/-- The frame is valid, so the 16th event emits the packet and stores its word (R105, R110). -/
theorem feedAll_receives_of_serialize (hc : events.map Prod.fst = serialize s.rxPrev index word)
    (hd : ∀ e ∈ events, s.cfg.minDuration ≤ e.2.toNat) :
    (feedAll events s).pktOut = (feedAll (events.take 15) s).pktOut ++ [{ index := index, word := word }]
      ∧ (feedAll events s).readStore index = word := by
  have hacc := allAccepted_of_serialize hc hd
  have hwin := feedAll_rxWindow_of_serialize hc hd
  have hlen : events.length = 16 := by simpa using congrArg List.length hc
  have hne : events ≠ [] := List.ne_nil_of_length_pos (by omega)
  have hv : frameValid (feedAll events s).rxWindow = true := hwin ▸ frameValid_packetFrame index word
  have hpkt := feedAll_pktOut_of_last_valid hacc hne hv
  have hstore := feedAll_readStore_of_last_valid hacc hne hv
  rw [hwin, windowPacket_packetFrame, hlen] at hpkt
  rw [hwin, packetFrame, windowIndex_frameOf, windowWord_frameOf] at hstore
  exact ⟨hpkt, hstore⟩

end CleanFrame

/-- Settles O41: the FEEDs are those of 16 long enough events with the colours of the packet. -/
theorem cleanFrameIsReceived : Obligations.CleanFrameIsReceived := by
  intro s index word ds hlen hds
  have hc : ((serialize s.rxPrev index word).zip ds).map Prod.fst = serialize s.rxPrev index word :=
    List.map_fst_zip (by simp [hlen])
  have hd : ∀ e ∈ (serialize s.rxPrev index word).zip ds, s.cfg.minDuration ≤ e.2.toNat :=
    fun e he => hds e.2 (List.of_mem_zip he).2
  have hwin := feedAll_rxWindow_of_serialize hc hd
  obtain ⟨hpkt, hstore⟩ := feedAll_receives_of_serialize hc hd
  refine ⟨_, _, ?_, runInstrs_feeds _ s, hwin, hwin ▸ frameValid_packetFrame index word, hpkt, hstore⟩
  rw [feedsOf, feeds, ← List.map_take]
  exact runInstrs_feeds _ s

/-! ### Counting the valid windows (R112) -/

/-- A window is the frame of its three fields (R54). -/
theorem frameOf_fields (w : Window) : frameOf (windowIndex w) (windowWord w) (windowChecksum w) = w := by
  have hlow : lowByte (windowWord w) = field w 16 8 := BitVec.extractLsb'_append_eq_right
  have hhigh : highByte (windowWord w) = field w 8 8 := BitVec.extractLsb'_append_eq_left
  rw [frameOf, hlow, hhigh]
  exact (field_append_four w 8 8 8 8).trans (field_full w)

/-- A valid window is the frame of the packet it stands for: its checksum field says nothing new (R105). -/
theorem packetFrame_of_valid {w : Window} (h : frameValid w = true) :
    packetFrame (windowIndex w) (windowWord w) = w := by
  rw [packetFrame, ← (frameValid_iff w).mp h, frameOf_fields]

/-- The valid windows are the frames of the packets, one for each index and word (R112). -/
def validWindowEquiv : { w : Window // frameValid w = true } ≃ Index × Word where
  toFun w := (windowIndex w, windowWord w)
  invFun p := ⟨packetFrame p.1 p.2, frameValid_packetFrame p.1 p.2⟩
  left_inv w := Subtype.ext (packetFrame_of_valid w.2)
  right_inv p := Prod.ext (windowIndex_frameOf p.1 p.2 _) (windowWord_frameOf p.1 p.2 _)

theorem natCard_bitVec (n : Nat) : Nat.card (BitVec n) = 2 ^ n :=
  Nat.card_eq_of_equiv_fin BitVec.equivFin.toEquiv

/-- Settles O33: valid windows are counted as packets, and the checksum of an index and a word is their CRC alone. -/
theorem validWindowsAreCounted : Obligations.ValidWindowsAreCounted := by
  obtain ⟨-, hzero⟩ := crcDetectsSingleBitFlips
  refine ⟨?_, fun index word => ⟨crc8 word index, frameValid_packetFrame index word,
    fun c hc => (frameValid_frameOf_iff index word c).mp hc⟩, hzero⟩
  rw [Nat.card_congr validWindowEquiv, Nat.card_prod, natCard_bitVec, natCard_bitVec, ← pow_add]

end Sys2Proof.Machine

/-! The exceptions of 60_exceptions.md: the block has none. A refused word costs one response, and every step answers a
next state. -/

namespace Sys2Proof.Machine

theorem step_of_reset {s : State} {rest : List PortEvent} (hp : s.port = .reset :: rest) :
    step s = .next s.advance.resetInput := by
  rw [step, fetch_reset hp]

theorem step_of_malformed {s : State} {w : CmdWord} {rest : List PortEvent} {why : Illegal}
    (hp : s.port = .cmd w :: rest) (hd : decode w = .illegal why) : step s = .next s.advance.refuseWord := by
  rw [step, fetch_malformed hp hd]

theorem exec_completes (i : Instr) (s : State) : ∃ t, exec i s = .next t := by
  obtain ⟨t, he, -⟩ := operationsWriteOnlyTheirRow i s
  exact ⟨t, he⟩

/-- Settles O7: a word with a ground is illegal to the decoder, and the step refuses an illegal word (R65, R124). -/
theorem refusedWordAnswersErrOnly : Obligations.RefusedWordAnswersErrOnly := by
  intro s w rest hp hground
  obtain ⟨hrefused, -⟩ := refusedExactlyOnARefusalGround w
  obtain ⟨why, hd⟩ := hrefused.mpr hground
  rw [step_of_malformed hp hd, State.refuseWord, State.respond, State.advance, hp, List.tail_cons]

/-- Settles O11: whatever the port holds next, the step is a named update or an operation, and operations complete. -/
theorem everyStepAnswersANextState : Obligations.EveryStepAnswersANextState := by
  intro s
  match hp : s.port with
  | [] => exact ⟨s, by rw [step, fetch_idle hp]⟩
  | .reset :: rest => exact ⟨_, step_of_reset hp⟩
  | .cmd w :: rest =>
    cases hd : decode w with
    | illegal why => exact ⟨_, step_of_malformed hp hd⟩
    | ok i => exact step_of_operation hp hd ▸ exec_completes i s.advance

end Sys2Proof.Machine

/-! Reset, the run and the hazards of 70_reset_and_hazards.md: what each input on the port costs, windows that validate
again, and the link from one block's commands to another block's packets. -/

namespace Sys2Proof.Machine

/-! ### Inputs and runs (R57, R140, R153, R154) -/

/-- Settles O8: the two named updates of a RESET are the record the statement writes out. -/
theorem resetInputReseedsOnly : Obligations.ResetInputReseedsOnly := by
  intro s rest hp
  rw [step_of_reset hp, State.advance, hp, List.tail_cons]
  rfl

/-- Settles O10: an empty port fetches as idle. -/
theorem idleStepChangesNothing : Obligations.IdleStepChangesNothing := by
  intro s hp
  rw [step, fetch_idle hp]

/-- A step takes the oldest input off the port and gives one response to a command word, none to a RESET. -/
theorem step_takes_oldest {s : State} {e : PortEvent} {rest : List PortEvent} (hp : s.port = e :: rest) :
    ∃ t, step s = .next t ∧ t.port = rest
      ∧ t.responses.length = s.responses.length + if e = .reset then 0 else 1 := by
  have htail : s.advance.port = rest := by simp [hp]
  cases e with
  | reset => exact ⟨_, step_of_reset hp, htail, rfl⟩
  | cmd w =>
    cases hd : decode w with
    | illegal why => exact ⟨_, step_of_malformed hp hd, htail, by simp⟩
    | ok i =>
      obtain ⟨t, he, -, -, -, ⟨r, hr, -⟩, hport, -⟩ := operationsWriteOnlyTheirRow i s.advance
      exact ⟨t, (step_of_operation hp hd).trans he, hport.trans htail, by simp [hr]⟩

theorem run_succ_of_step {M : Host.Core} {s t : M.State} (h : M.step s = .next t) (k : Nat) :
    M.run (k + 1) s = M.run k t := by
  rw [Host.Core.run, h]

/-- Settles O12, by induction on the inputs placed: each costs one step. -/
theorem runConsumesItsInputs : Obligations.RunConsumesItsInputs := by
  intro s
  induction hp : s.port generalizing s with
  | nil => exact ⟨s, rfl, hp, by simp⟩
  | cons e rest ih =>
    obtain ⟨t, hstep, rfl, hlen⟩ := step_takes_oldest hp
    obtain ⟨u, hrun, hport, hcount⟩ := ih t rfl
    refine ⟨u, (run_succ_of_step (M := core) hstep _).trans hrun, hport, ?_⟩
    rw [hcount, hlen]
    by_cases he : e = .reset
    · simp [he]
    · simp [he]; omega

/-! ### Shifted frames (R145) -/

@[simp] theorem shiftIn_zero (w : Window) : shiftIn w 0 = w <<< 2 := by
  simp [shiftIn]

theorem nextWindow_of_symbol_zero {s : State} {color : Color} (h : symbolForTransition s.rxPrev color = 0) :
    nextWindow s color = s.rxWindow <<< 2 := by
  rw [nextWindow, h, shiftIn_zero]

/-- Symbol 0 enters the lowest byte as a pair of zeros (R103). -/
theorem field_shiftLeft_two_zero (w : Window) : field (w <<< 2) 0 8 = field w 0 6 ++ (0 : BitVec 2) := by
  rw [← shiftIn_zero]
  exact field_shiftIn w 0 (n := 6) (by decide)

/-- Every other byte loses its top pair and takes the pair below it (R103). -/
theorem field_shiftLeft_two (w : Window) {lo : Nat} (h : lo ≤ 22) :
    field (w <<< 2) (lo + 2) 8 = field w (lo + 2) 6 ++ field w lo 2 := by
  rw [← shiftIn_zero, field_shiftIn_above w 0 (by omega), field_append_field w rfl]

theorem lowByte_windowWord (w : Window) : lowByte (windowWord w) = field w 16 8 :=
  BitVec.extractLsb'_append_eq_right

theorem highByte_windowWord (w : Window) : highByte (windowWord w) = field w 8 8 :=
  BitVec.extractLsb'_append_eq_left

/-- A byte whose top pair is 0 is its low six bits. -/
theorem field_of_top_zero {w : Window} {lo : Nat} (h : field w (lo + 6) 2 = 0) :
    field w lo 8 = (0 : BitVec 2) ++ field w lo 6 := by
  rw [← h, field_append_field w rfl]

/-- A field of a byte of the window is a field of the window. -/
theorem extractLsb'_field (w : Window) (lo : Nat) {m i n : Nat} (h : i + n ≤ m) :
    (field w lo m).extractLsb' i n = field w (lo + i) n := by
  apply BitVec.eq_of_getLsbD_eq
  intro k hk
  simp [field, hk, show i + k < m by omega, Nat.add_assoc]

theorem byte_shiftLeft_two (b : Byte) : b <<< 2 = b.extractLsb' 0 6 ++ (0 : BitVec 2) :=
  BitVec.shiftLeft_eq_concat_of_lt (by decide)

theorem polyOf_zero (n : Nat) : polyOf (0 : BitVec n) = 0 := by
  simp [polyOf]

/-- A window's bytes in the order the checksum takes them: the word's bytes, the index, the checksum (R54, R72). -/
theorem polyOf_window (w : Window) :
    polyOf (crcMessage (windowWord w) (windowIndex w) ++ windowChecksum w)
      = ((polyOf (field w 16 8) * Polynomial.X ^ 8 + polyOf (field w 8 8)) * Polynomial.X ^ 8 + polyOf (field w 24 8))
        * Polynomial.X ^ 8 + polyOf (field w 0 8) := by
  rw [crcMessage, lowByte_windowWord, highByte_windowWord, polyOf_append, polyOf_append, polyOf_append]
  rfl

section ShiftedFrame
variable {w : Window} (hindex : field w 30 2 = 0) (hlow : field w 22 2 = 0) (hcheck : field w 6 2 = 0)

include hlow in
theorem windowIndex_shiftLeft_two : windowIndex (w <<< 2) = windowIndex w <<< 2 := by
  have hsix : (windowIndex w).extractLsb' 0 6 = field w 24 6 := extractLsb'_field w 24 (i := 0) (by decide)
  rw [byte_shiftLeft_two, hsix, ← hlow]
  exact field_shiftLeft_two w (by decide)

include hcheck in
theorem windowWord_shiftLeft_two : windowWord (w <<< 2)
    = ((field w 8 8).extractLsb' 0 6 ++ (0 : BitVec 2))
      ++ ((field w 16 8).extractLsb' 0 6 ++ (field w 8 8).extractLsb' 6 2) := by
  have hhighByte : field (w <<< 2) 8 8 = field w 8 6 ++ field w 6 2 := field_shiftLeft_two w (by decide)
  have hlowByte : field (w <<< 2) 16 8 = field w 16 6 ++ field w 14 2 := field_shiftLeft_two w (by decide)
  rw [extractLsb'_field w 8 (by decide), extractLsb'_field w 16 (by decide), extractLsb'_field w 8 (by decide),
    ← hcheck]
  exact congrArg₂ (· ++ ·) hhighByte hlowByte

include hindex hlow hcheck

/-- The pair that leaves the high byte enters the low byte, its neighbour in the window and in the checksum's order alike,
and the pairs that leave the other bytes are 0: the message is multiplied by `x^2` (R74, R145). -/
theorem polyOf_window_shiftLeft_two :
    polyOf (crcMessage (windowWord (w <<< 2)) (windowIndex (w <<< 2)) ++ windowChecksum (w <<< 2))
      = polyOf (crcMessage (windowWord w) (windowIndex w) ++ windowChecksum w) * Polynomial.X ^ 2 := by
  have hmid : field w 8 8 = field w 14 2 ++ field w 8 6 := (field_append_field w (n := 6) (m := 2) rfl).symm
  rw [polyOf_window, polyOf_window, field_shiftLeft_two w (lo := 14) (by decide),
    field_shiftLeft_two w (lo := 6) (by decide), field_shiftLeft_two w (lo := 22) (by decide), field_shiftLeft_two_zero,
    hmid, field_of_top_zero (lo := 16) hlow, field_of_top_zero (lo := 24) hindex, field_of_top_zero (lo := 0) hcheck,
    hlow, hcheck]
  simp only [polyOf_append, polyOf_zero]
  ring

theorem frameValid_shiftLeft_two (h : frameValid w = true) : frameValid (w <<< 2) = true := by
  obtain ⟨-, hvalid⟩ := crcIsThePolynomialRemainder
  rw [hvalid, polyOf_window_shiftLeft_two hindex hlow hcheck]
  exact ((hvalid w).mp h).mul_right _

end ShiftedFrame

/-- Settles O43: a multiple of `G` times `x^2` is one again, so the event delivers the window shifted by symbol 0. -/
theorem shiftedFrameValidatesAgain : Obligations.ShiftedFrameValidatesAgain := by
  intro s color d hv hindex hlow hcheck hd hc hsym
  have hacc : eventIgnored s.cfg s.rxPrev color d.toNat = false := (eventIgnored_eq_false_iff _ _ _ _).mpr ⟨hd, hc⟩
  have hwin := nextWindow_of_symbol_zero hsym
  have hnext := frameValid_shiftLeft_two hindex hlow hcheck hv
  have hidx := windowIndex_shiftLeft_two hlow
  have hword := windowWord_shiftLeft_two hcheck
  have hevent := feedEvent_of_valid hacc (hwin ▸ hnext)
  rw [hwin, windowPacket, hidx, hword] at hevent
  refine ⟨_, exec_feed color d s, ?_, ?_, ?_⟩
  · rw [feedEvent_rxWindow_of_accepted hacc, hwin]
  · rw [feedEvent_rxWindow_of_accepted hacc, hwin, hnext]
  · rw [hevent]
    exact ⟨rfl, State.writeStore_readStore_same _ _ _⟩

/-! ### The all-zero window (R146) -/

/-- Accepted events of symbol 0 leave the all-zero window as it is, and each emits its packet. -/
theorem feedAll_of_zero_window {events : List (Color × BitVec 16)} {s : State} (hw : s.rxWindow = 0)
    (hacc : AllAccepted s.cfg s.rxPrev events)
    (hzero : ∀ v ∈ receivedSymbols s.rxPrev (events.map Prod.fst), v = 0) :
    (feedAll events s).rxWindow = 0
      ∧ (feedAll events s).pktOut = s.pktOut ++ List.replicate events.length { index := 0, word := 0 } := by
  induction events generalizing s with
  | nil => simp [hw]
  | cons e es ih =>
    obtain ⟨he, hes⟩ := (allAccepted_cons _ _ _ _).mp hacc
    obtain ⟨hsym, hsyms⟩ := List.forall_mem_cons.mp hzero
    have hnext : nextWindow s e.1 = 0 := by rw [nextWindow_of_symbol_zero hsym, hw]; rfl
    obtain ⟨-, hvalid⟩ := crcDetectsSingleBitFlips
    have hpkt : (feedEvent e.1 e.2.toNat s).pktOut = s.pktOut ++ [{ index := 0, word := 0 }] := by
      rw [feedEvent_of_valid he (hnext ▸ hvalid), hnext]
      rfl
    obtain ⟨hwin, hpkts⟩ := ih (s := feedEvent e.1 e.2.toNat s) (by rw [feedEvent_rxWindow_of_accepted he, hnext])
      (by simpa [he] using hes) (by simpa [he] using hsyms)
    refine ⟨hwin, ?_⟩
    rw [feedAll_cons, hpkts, hpkt, List.append_assoc]
    rfl

/-- Symbol `k` that a receiver reads is that of colour `k` against the colour before it (R102). -/
theorem receivedSymbols_getElem? (p d : Color) (cs : List Color) (k : Nat) :
    (receivedSymbols p cs)[k]? = cs[k]?.map (symbolForTransition ((p :: cs).getD k d)) := by
  induction cs generalizing p k with
  | nil => rfl
  | cons c cs ih =>
    cases k with
    | zero => rfl
    | succ k => exact ih c k

/-- Settles O44: the symbols the receiver reads are those the statement names, all 0. -/
theorem zeroWindowRepeatsItsPacket : Obligations.ZeroWindowRepeatsItsPacket := by
  intro events s hw hacc hzero
  refine ⟨_, runInstrs_feeds events s, feedAll_of_zero_window hw hacc fun v hv => ?_⟩
  obtain ⟨k, hk⟩ := List.mem_iff_getElem?.mp hv
  rw [receivedSymbols_getElem? _ .off, Option.map_eq_some_iff] at hk
  obtain ⟨c, hc, rfl⟩ := hk
  have hlt : k < events.length := by simpa using (List.getElem?_eq_some_iff.mp hc).1
  simpa [List.getD_eq_getElem?_getD, hc] using hzero k hlt

/-! ### Early matches (R148) -/

/-- Refutes O46: no first symbol makes the seed of the spec's test vectors valid. -/
theorem not_everySeedMatchesAfterOneSymbol : ¬ Obligations.EverySeedMatchesAfterOneSymbol := by
  intro h
  obtain ⟨s, hs⟩ := h 0xFFFFFFFF (by decide)
  have hnone : ∀ s : Symbol, frameValid (shiftIn 0xFFFFFFFF s) = false := by decide +kernel
  rw [hnone s] at hs
  cases hs

/-! ### A message on the transmit side (R90, R91, R97) -/

/-- The packets of a message whose first word has the index `n` (R36, R97). -/
def messagePackets (n : Nat) (words : List Word) : List (Index × Word) :=
  (words.zipIdx n).map fun p => (BitVec.ofNat 8 p.2, p.1)

theorem messagePackets_getElem? (n k : Nat) (words : List Word) :
    (messagePackets n words)[k]? = words[k]?.map fun w => (BitVec.ofNat 8 (n + k), w) := by
  rw [messagePackets, List.getElem?_map, List.getElem?_zipIdx, Option.map_map]
  rfl

theorem encwFrom_eq_encws (n : Nat) (words : List Word) : encwFrom n words = encws (messagePackets n words) := by
  induction words generalizing n with
  | nil => rfl
  | cons w ws ih => rw [encwFrom, ih]; rfl

/-- The commands of a message: its packets' colours in one chain from Off, all of the constant duration. -/
def messageCommands (cfg : Config) (words : List Word) : List Command :=
  (serializeAll .off (messagePackets 0 words)).map (commandOf cfg)

/-- TXBEGIN and a message's ENCWs emit the message's commands, whatever `tx_prev` was (R90). -/
theorem runInstrs_message (words : List Word) (s : State) :
    ∃ t, runInstrs (.txbegin :: encwFrom 0 words) s = .next t
      ∧ t.txOut = s.txOut ++ messageCommands s.cfg words := by
  rw [encwFrom_eq_encws, runInstrs, exec_txbegin]
  exact ⟨_, runInstrs_encws _ _, rfl⟩

/-- A driver that conforms shows the commands' colours in order, each for at least the constant duration (R96). -/
theorem conforming_events {cfg : Config} {colors : List Color} {events : List (Color × BitVec 16)}
    (h : DriverConforms (colors.map (commandOf cfg)) (events.map (fun e => (e.1, e.2.toNat)))) :
    events.map Prod.fst = colors ∧ ∀ e ∈ events, cfg.duration ≤ e.2.toNat := by
  rw [DriverConforms, List.forall₂_map_left_iff, List.forall₂_map_right_iff] at h
  induction h with
  | nil => simp
  | cons he _ ih =>
    obtain ⟨hcolor, hlong⟩ := he
    obtain ⟨hcolors, hall⟩ := ih
    exact ⟨congrArg₂ List.cons hcolor hcolors, List.forall_mem_cons.mpr ⟨hlong, hall⟩⟩

/-! ### Long enough events (R142) -/

/-- Once a long enough event is over its colour is the previous one: it was taken, or it was held already. -/
theorem feedEvent_rxPrev_of_long {color : Color} {d : Nat} {s : State} (hd : s.cfg.minDuration ≤ d) :
    (feedEvent color d s).rxPrev = color := by
  rcases feedEvent_cases color d s with ⟨hi, e⟩ | ⟨_, _, _, e⟩ | ⟨_, _, _, e⟩ <;> rw [e]
  · exact (hi.resolve_left hd.not_gt).symm
  · rfl
  · rfl

theorem feedAll_rxPrev_of_long {events : List (Color × BitVec 16)} {s : State}
    (hd : ∀ e ∈ events, s.cfg.minDuration ≤ e.2.toNat) :
    (feedAll events s).rxPrev = lastColor s.rxPrev (events.map Prod.fst) := by
  induction events generalizing s with
  | nil => rfl
  | cons e es ih =>
    obtain ⟨he, hes⟩ := List.forall_mem_cons.mp hd
    rw [feedAll_cons, ih (by simpa using hes), feedEvent_rxPrev_of_long he, List.map_cons, lastColor_cons]

/-- Where any colour was sent, the last one does not depend on the colour before the first. -/
theorem lastColor_eq_of_ne_nil {cs : List Color} (h : cs ≠ []) (p q : Color) : lastColor p cs = lastColor q cs := by
  cases cs with
  | nil => contradiction
  | cons c cs => simp

theorem lastColor_take {cs : List Color} {n : Nat} (p : Color) (hpos : 0 < n) (hn : n ≤ cs.length) :
    some (lastColor p (cs.take n)) = cs[n - 1]? := by
  have hlt : n - 1 < cs.length := by omega
  simp [lastColor, List.getLastD_eq_getLast?, List.getLast?_take, hpos.ne', hlt]

/-! ### A frame among others (R110, R142, R151) -/

theorem serializeAll_append (p : Color) (as bs : List (Index × Word)) :
    serializeAll p (as ++ bs) = serializeAll p as ++ serializeAll (lastColor p (serializeAll p as)) bs := by
  rw [serializeAll, packetsSymbols, List.flatMap_append, colorChain_append]
  rfl

@[simp] theorem serializeAll_length (p : Color) (packets : List (Index × Word)) :
    (serializeAll p packets).length = 16 * packets.length := by
  simp [serializeAll]

/-- The colours sent are those of the first `k` packets, then those of packet `k`, then the rest. -/
theorem serializeAll_eq_append_frame {packets : List (Index × Word)} {k : Nat} {q : Index × Word}
    (hq : packets[k]? = some q) (p : Color) :
    ∃ rest, serializeAll p packets = serializeAll p (packets.take k)
      ++ (serialize (lastColor p (serializeAll p (packets.take k))) q.1 q.2 ++ rest) := by
  obtain ⟨hk, rfl⟩ := List.getElem?_eq_some_iff.mp hq
  have hsplit : packets.take k ++ packets[k] :: packets.drop (k + 1) = packets := by
    rw [← List.drop_eq_getElem_cons hk, List.take_append_drop]
  have hall := serializeAll_append p (packets.take k) (packets[k] :: packets.drop (k + 1))
  rw [hsplit, serializeAll_cons] at hall
  exact ⟨_, hall⟩

section SentFrame
variable {packets : List (Index × Word)} {p : Color} {events : List (Color × BitVec 16)} {k : Nat} {q : Index × Word}
  (hc : events.map Prod.fst = serializeAll p packets) (hq : packets[k]? = some q)
include hc hq

/-- The colours of the events before frame `k`. -/
theorem colors_before_frame : (events.take (16 * k)).map Prod.fst = serializeAll p (packets.take k) := by
  obtain ⟨hk, -⟩ := List.getElem?_eq_some_iff.mp hq
  obtain ⟨rest, hall⟩ := serializeAll_eq_append_frame hq p
  rw [List.map_take, hc, hall, List.take_left']
  simp [hk.le]

/-- The colours of frame `k` are those of its packet, serialized from the last colour before it. -/
theorem colors_of_frame : ((events.drop (16 * k)).take 16).map Prod.fst
    = serialize (lastColor p (serializeAll p (packets.take k))) q.1 q.2 := by
  obtain ⟨hk, -⟩ := List.getElem?_eq_some_iff.mp hq
  obtain ⟨rest, hall⟩ := serializeAll_eq_append_frame hq p
  rw [List.map_take, List.map_drop, hc, hall, List.drop_left', List.take_left' (by simp)]
  simp [hk.le]

/-- A receiver with the sender's previous colour before frame `k` receives its packet at the last of its events; one
with another has the sender's after any frame before it. -/
theorem feedAll_receives_frame {s : State} (hd : ∀ e ∈ events, s.cfg.minDuration ≤ e.2.toNat)
    (hp : s.rxPrev = p ∨ 0 < k) :
    (feedAll (events.take (16 * k + 16)) s).pktOut
      = (feedAll (events.take (16 * k + 15)) s).pktOut ++ [{ index := q.1, word := q.2 }] := by
  have hbefore := colors_before_frame hc hq
  have hframe := colors_of_frame hc hq
  have hprev : (feedAll (events.take (16 * k)) s).rxPrev = lastColor p (serializeAll p (packets.take k)) := by
    rw [feedAll_rxPrev_of_long fun e he => hd e (List.mem_of_mem_take he), hbefore]
    rcases hp with rfl | hpos
    · rfl
    · obtain ⟨hk, -⟩ := List.getElem?_eq_some_iff.mp hq
      exact lastColor_eq_of_ne_nil (List.ne_nil_of_length_pos (by simp; omega)) _ _
  rw [← hprev] at hframe
  obtain ⟨hpkt, -⟩ := feedAll_receives_of_serialize hframe fun e he => by
    rw [feedAll_cfg]
    exact hd e (List.mem_of_mem_drop (List.mem_of_mem_take he))
  rwa [List.take_take, ← feedAll_append, ← feedAll_append, ← List.take_add, ← List.take_add] at hpkt

end SentFrame

/-! ### The store after a list of events (R38) -/

theorem latestWord_of_last {ps pre post : List Packet} {p : Packet} (h : ps = pre ++ p :: post)
    (hpost : ∀ q ∈ post, q.index ≠ p.index) : latestWord ps p.index = some p.word := by
  have hnone : post.reverse.find? (fun q => q.index = p.index) = none := by simpa using hpost
  simp [h, latestWord, List.find?_append, hnone]

/-- Events append packets, and each entry then reads as the latest of them with its index, or as before. -/
theorem feedAll_readStore (events : List (Color × BitVec 16)) (s : State) :
    ∃ ps, (feedAll events s).pktOut = s.pktOut ++ ps
      ∧ ∀ index, (feedAll events s).readStore index = (latestWord ps index).getD (s.readStore index) := by
  induction events using List.reverseRecOn with
  | nil => exact ⟨[], by simp, fun _ => rfl⟩
  | append_singleton es e ih =>
    obtain ⟨ps, hps, hread⟩ := ih
    rw [feedAll_append, feedAll_cons, feedAll_nil]
    generalize feedAll es s = u at hps hread
    rcases feedEvent_cases e.1 e.2.toNat u with ⟨-, he⟩ | ⟨-, -, -, he⟩ | ⟨-, -, -, he⟩ <;> rw [he]
    · exact ⟨ps, hps, hread⟩
    · exact ⟨ps, hps, hread⟩
    · refine ⟨ps ++ [windowPacket (nextWindow u e.1)], by simp [hps], fun index => ?_⟩
      by_cases hi : index = windowIndex (nextWindow u e.1)
      · simp [latestWord_append, hi, windowPacket]
      · simp [latestWord_append, hi, windowPacket, State.writeStore_readStore_other _ _ hi, hread]

/-! ### The link (R142, R151) -/

/-- Settles O48: the previous colours agree from the start, so every frame is received, and an entry reads as the latest
packet with its index. -/
theorem linkDeliversEveryGenuinePacket : Obligations.LinkDeliversEveryGenuinePacket := by
  intro words snd rcv _ hprev hmin
  obtain ⟨snd', hrun, hout⟩ := runInstrs_message words snd
  refine ⟨snd', _, hrun, hout, fun events hconf => ?_⟩
  obtain ⟨hcolors, hlong⟩ := conforming_events hconf
  obtain ⟨ps, hpkt, hread⟩ := feedAll_readStore events rcv
  refine ⟨_, ps, runInstrs_feeds events rcv, hpkt, fun k word hk => ⟨?_, fun pre post hps hlast => ?_⟩⟩
  · have hq : (messagePackets 0 words)[k]? = some (BitVec.ofNat 8 k, word) := by simp [messagePackets_getElem?, hk]
    exact ⟨_, _, runInstrs_feeds _ rcv, runInstrs_feeds _ rcv,
      feedAll_receives_frame hcolors hq (fun e he => hmin.trans (hlong e he)) (.inl hprev)⟩
  · rw [hread, latestWord_of_last hps hlast, Option.getD_some]

/-- Settles O49: each event is long enough, so its colour is the previous one afterwards, and a frame that begins where
the previous colours agree is received. -/
theorem disagreementCostsOnlyTheFirstFrame : Obligations.DisagreementCostsOnlyTheFirstFrame := by
  intro words snd rcv _ hmin
  obtain ⟨snd', hrun, hout⟩ := runInstrs_message words snd
  refine ⟨snd', _, hrun, hout, fun events hconf => ?_⟩
  obtain ⟨hcolors, hlong⟩ := conforming_events hconf
  have hd : ∀ e ∈ events, rcv.cfg.minDuration ≤ e.2.toNat := fun e he => hmin.trans (hlong e he)
  refine ⟨fun n hpos hn => ⟨_, runInstrs_feeds _ rcv, ?_⟩, fun k word hpos hk => ?_⟩
  · rw [feedAll_rxPrev_of_long fun e he => hd e (List.mem_of_mem_take he), List.map_take, hcolors, messageCommands,
      map_color_map_commandOf]
    exact lastColor_take _ hpos (by simpa [messageCommands] using hn)
  · have hq : (messagePackets 0 words)[k]? = some (BitVec.ofNat 8 k, word) := by simp [messagePackets_getElem?, hk]
    exact ⟨_, _, runInstrs_feeds _ rcv, runInstrs_feeds _ rcv, feedAll_receives_frame hcolors hq hd (.inr hpos)⟩

end Sys2Proof.Machine
